-- ==== Sys2Proof/Word.lean ====
section
/-! DEFINITION. The two words the unit's port carries: a byte of BUF or STREAM and a 64-bit register word
(10_state.md R17, 20_memory.md R46). -/

namespace Sys2Proof

/-- One byte of BUF or STREAM. -/
abbrev Byte := BitVec 8

/-- One register, one command word, one binary64 encoding: 64 bits, bit 0 least significant (R7). -/
abbrev Word := BitVec 64

end Sys2Proof
end

