-- ==== Sys2Proof/Syntax.lean ====
section
/-! DEFINITION. The eight commands of spec/opcode_table.json (30_encoding.md R64), one constructor a row. -/

namespace Sys2Proof

/-- A command. Operands are the mathematical values of R63: `p` the shift, `d` the direction bit (true = 1), and
the line's selector, signed for a diagonal alone. -/
inductive Instr where
  /-- NOP, no operation (R114). -/
  | nop
  /-- SRST, soft reset (R113); the word's ignored bits 63:8 (R68) are no operand. -/
  | srst
  /-- GEN, generate the bit stream (R83). -/
  | gen
  /-- ROTR, rotate row `row` (R93). -/
  | rotr (row p : Nat) (d : Bool)
  /-- ROTC, rotate column `col` (R94). -/
  | rotc (col p : Nat) (d : Bool)
  /-- ROTA, rotate anti-diagonal `k` (R95). -/
  | rota (k p : Nat) (d : Bool)
  /-- ROTD, rotate diagonal `l` (R96). -/
  | rotd (l : Int) (p : Nat) (d : Bool)
  /-- APPLY, one SubHCIE apply; MODE selects Encrypt (R105) or Decrypt (R109). -/
  | apply
  deriving DecidableEq, Repr

end Sys2Proof
end

