-- ==== Sys2Proof/WellFormed.lean ====
section
/-! DEFINITION. Which commands fit the command word: the operand ranges of 30_encoding.md R70. -/

namespace Sys2Proof

/-- The ranges of R70: 0 ≤ p < 2^32 and 0 ≤ selector < 65536. -/
def fitsUnsigned (sel p : Nat) : Bool := decide (sel < 65536) && decide (p < 2 ^ 32)

/-- The ranges of R70 for ROTD: −32768 ≤ l ≤ 32767 and 0 ≤ p < 2^32. -/
def fitsSigned (l : Int) (p : Nat) : Bool :=
  decide (-32768 ≤ l) && decide (l ≤ 32767) && decide (p < 2 ^ 32)

/-- "The operands of a rotation must fit their fields" (R70). -/
def Instr.wellFormed : Instr → Bool
  | .nop => true
  | .srst => true
  | .gen => true
  | .rotr row p _ => fitsUnsigned row p
  | .rotc col p _ => fitsUnsigned col p
  | .rota k p _ => fitsUnsigned k p
  | .rotd l p _ => fitsSigned l p
  | .apply => true

end Sys2Proof
end

