-- ==== Sys2Proof/Decode.lean ====
section
/-! DEFINITION. The command word: its fields (30_encoding.md R62), the decoder, total on all 2^64 words (R67),
and the encoder. -/

namespace Sys2Proof

/-- "Every word is one of three things" (R67). -/
inductive Decoded where
  /-- A command of R64. -/
  | command (i : Instr)
  /-- An unassigned OP (R65). -/
  | illegalOpcode
  /-- An assigned OP with a reserved bit set (R66). -/
  | reservedBits
  deriving DecidableEq, Repr

/-- OP, bits [7:0] (R62). -/
def opField (w : Word) : Byte := w.extractLsb' 0 8

/-- DIR, bit [8] (R62). -/
def dirField (w : Word) : Bool := w.getLsbD 8

/-- SEL, bits [31:16] (R62), before it is read as unsigned or signed. -/
def selField (w : Word) : BitVec 16 := w.extractLsb' 16 16

/-- P, bits [63:32], unsigned (R63). -/
def shiftField (w : Word) : Nat := (w.extractLsb' 32 32).toNat

/-- Format Z: bits [63:8] are reserved and must be 0 (R62, R66). -/
def decodeZ (i : Instr) (w : Word) : Decoded :=
  if w.extractLsb' 8 56 = 0#56 then .command i else .reservedBits

/-- Format R: bits [15:9] are reserved and must be 0 (R62, R66). -/
def decodeR (i : Instr) (w : Word) : Decoded :=
  if w.extractLsb' 9 7 = 0#7 then .command i else .reservedBits

/-- The decoder: OP alone fixes the format (R61), the opcode map is R64, operands are assembled by R63. An
unassigned OP is illegal whatever its other bits (R65); SRST ignores bits 63:8 (R68). -/
def decode (w : Word) : Decoded :=
  let op := opField w
  let sel := selField w
  let p := shiftField w
  let d := dirField w
  if op = 0x00 then decodeZ .nop w
  else if op = 0x01 then .command .srst
  else if op = 0x10 then decodeZ .gen w
  else if op = 0x20 then decodeR (.rotr sel.toNat p d) w
  else if op = 0x21 then decodeR (.rotc sel.toNat p d) w
  else if op = 0x22 then decodeR (.rota sel.toNat p d) w
  else if op = 0x23 then decodeR (.rotd sel.toInt p d) w
  else if op = 0x30 then decodeZ .apply w
  else .illegalOpcode

/-- A format-Z word (R62). -/
def packZ (op : Byte) : Word := 0#56 ++ op

/-- A format-R word (R62): P, SEL, seven zeros, DIR, OP from the most significant bit down. -/
def packR (op : Byte) (sel : BitVec 16) (p : Nat) (d : Bool) : Word :=
  BitVec.ofNat 32 p ++ sel ++ 0#7 ++ BitVec.ofBool d ++ op

/-- OP of each command (R64). -/
def Instr.opcode : Instr → Byte
  | .nop => 0x00
  | .srst => 0x01
  | .gen => 0x10
  | .rotr _ _ _ => 0x20
  | .rotc _ _ _ => 0x21
  | .rota _ _ _ => 0x22
  | .rotd _ _ _ => 0x23
  | .apply => 0x30

/-- The encoder: the word of a well-formed command. SRST has the canonical word 1 (R68). -/
def encode : Instr → Word
  | .nop => packZ 0x00
  | .srst => packZ 0x01
  | .gen => packZ 0x10
  | .rotr row p d => packR 0x20 (BitVec.ofNat 16 row) p d
  | .rotc col p d => packR 0x21 (BitVec.ofNat 16 col) p d
  | .rota k p d => packR 0x22 (BitVec.ofNat 16 k) p d
  | .rotd l p d => packR 0x23 (BitVec.ofInt 16 l) p d
  | .apply => packZ 0x30

/-- What the decoder reads from a word given as spec/opcode_table.json numbers its bits. A command is one 64-bit
word and the port carries it whole (R46, R61), so there are no bytes to lay out: the bits above `nbits` are 0. -/
def decodeTableWord (nbits w : Nat) : Option Instr :=
  match decode (BitVec.ofNat 64 (w % 2 ^ nbits)) with
  | .command i => some i
  | .illegalOpcode => none
  | .reservedBits => none

end Sys2Proof
end

