-- ==== Sys2Proof/Config.lean ====
section
/-! DEFINITION. What an implementation fixes (00_scope.md R6) and the free values of the model (20_memory.md R55). -/

namespace Sys2Proof

/-- The named parameters of 00_scope.md section 4 (R6): every model takes them as arguments. State carries
them, no step changes them, and a claim over all states is a claim over all parameters (log 1). -/
structure Params where
  /-- SM_MAX, the largest S_M the unit accepts. -/
  smMax : Nat
  /-- SN_MAX, the largest S_N the unit accepts. -/
  snMax : Nat
  /-- L_MAX, the largest stream length in bits. -/
  lMax : Nat
  /-- UNIT_BASE, the host address of the three windows. -/
  unitBase : Nat
  /-- GEN_EMIT_X0: whether the first stream byte comes from x0 itself (R79). -/
  genEmitX0 : Bool
  deriving DecidableEq, Repr

/-- The ranges of 00_scope.md section 4: 1 ≤ SM_MAX, SN_MAX ≤ 1024; 8 ≤ L_MAX ≤ 2^27, a multiple of 8. -/
def Params.legal (p : Params) : Bool :=
  decide (1 ≤ p.smMax ∧ p.smMax ≤ 1024 ∧ 1 ≤ p.snMax ∧ p.snMax ≤ 1024 ∧
    8 ≤ p.lMax ∧ p.lMax ≤ 2 ^ 27 ∧ p.lMax % 8 = 0)

/-- BUF_BYTES = SM_MAX · SN_MAX (R38). -/
def Params.bufBytes (p : Params) : Nat := p.smMax * p.snMax

/-- STREAM_BYTES = L_MAX / 8 (R39). -/
def Params.streamBytes (p : Params) : Nat := p.lMax / 8

/-- The parameters that State.reset is built with. DESIGN CHOICE (log 1; unsafe for a statement that names one
of these values): the largest capacities the spec allows, the windows at host address 0, and GEN_EMIT_X0 = 0 as
in the spec's vectors. -/
def Params.chosen : Params :=
  { smMax := 1024, snMax := 1024, lMax := 2 ^ 27, unitBase := 0, genEmitX0 := false }

/-- FREE VALUE (log 3; safe): the byte the n-th read of BUF or STREAM during BUSY = 1 returns. R55 leaves it
unspecified, so it has no body and no proof can see it. -/
opaque Config.freeByte : Nat → Byte

end Sys2Proof
end

