-- ==== Sys2Proof/Machine/State.lean ====
section
/-! DEFINITION. The state of the unit (10_state.md R14, R17, R38 to R41), the host's port accesses
(20_memory.md R42 to R45), and the reasons a step can stop (60_exceptions.md R129). -/

namespace Sys2Proof.Machine

/-- A byte memory: (address, byte) pairs, addresses strictly rising. An unlisted byte is undefined (R40): it has
no value, so no listed entry could equal it. -/
abbrev Memory := List Host.Cell

/-- The register names of R17. -/
inductive Reg where
  | id | cap | status | cmd | keyX0 | keyMu | streamLen | geom | rounds | weights | mode | cursor
  deriving DecidableEq, Repr

/-- The width of a host access. -/
inductive Width where
  | b8 | b16 | b32 | b64
  deriving DecidableEq, Repr

/-- What a host access does; a write carries the bus value as a 64-bit integer (R46), of which a byte write
uses bits 7:0 (R116, R117). -/
inductive PortOp where
  | read
  | write (v : Word)
  deriving DecidableEq, Repr

/-- One host access at the port: host address, width, and what it does (R42). -/
structure Access where
  addr : Nat
  width : Width
  op : PortOp
  deriving DecidableEq, Repr

/-- What an access reaches: a register (R43), a BUF byte or a STREAM byte (R44). -/
inductive Target where
  | reg (r : Reg)
  | buf (a : Nat)
  | stream (t : Nat)
  deriving DecidableEq, Repr

/-- Who acts next (R13). -/
inductive Turn where
  /-- The host makes an access. -/
  | host (a : Access)
  /-- The unit takes its step, which completes the pending command (R53). -/
  | unit
  /-- Power is lost and returns: power-on reset (R136, R137; log 12). -/
  | powerOn
  deriving DecidableEq, Repr

/-- What the host's last port read returned. -/
inductive Response where
  | none
  | word (v : Word)
  | byte (v : Byte)
  deriving DecidableEq, Repr

/-- The error codes of R120, without NONE. -/
inductive ErrorCode where
  | illegalOpcode | reservedBits | busyAccess | zeroBlock | geomRange | zeroRounds | badWeight
  | cursorRange | streamRange | degenerateKey | badSelector | numericRange
  deriving DecidableEq, Repr

/-- Why the machine stops. No ERRCODE stands for it (R129). -/
inductive Fault where
  /-- UNDEFINED_READ (R40, R112): raised by ROTR, ROTC, ROTA, ROTD and APPLY when a BUF or STREAM byte they read is
  undefined, and by a host read of an undefined byte while BUSY = 0. Safe: the hardware goes on with some value
  that no rule fixes, so nothing is provable here (log 2). -/
  | undefinedRead
  deriving DecidableEq, Repr

/-- Why the model gives no meaning. -/
inductive Refusal where
  /-- An instruction without a meaning yet. No arm of exec answers it: every row of the table has a meaning. -/
  | notModelled (mnemonic : String)
  /-- A host access outside the windows, to an unmapped offset, beyond a capacity, of the wrong width or misaligned:
  "a Lean model refuses a host program that makes any such access" (R45, R129). Raised by hostAccess. Safe: the
  hardware reads 0 or ignores the write (log 7). -/
  | malformedAccess
  deriving DecidableEq, Repr

/-- The machine: the registers of R17 that hold something, the two memories, PENDING, the parameters (log 1), and
three fields of the model's own (`schedule` log 4, `response` log 6, `draws` log 3). ID and CAP are constants, CMD
holds nothing, STATUS.BUSY is `pending` (R20): `readReg` computes them. -/
structure State where
  /-- KEY_X0 (R25). -/
  keyX0 : Word
  /-- KEY_MU (R26). -/
  keyMu : Word
  /-- STREAM_LEN (R27). -/
  streamLen : Word
  /-- GEOM (R28). -/
  geom : Word
  /-- ROUNDS (R29). -/
  rounds : Word
  /-- WEIGHTS (R30). -/
  weights : Word
  /-- MODE (R31). -/
  mode : Word
  /-- CURSOR (R32). -/
  cursor : Word
  /-- STATUS.ERR (R21). -/
  err : Bool
  /-- STATUS.ERRCODE (R22). -/
  errCode : Byte
  /-- BUF, the block buffer (R38). -/
  buf : Memory
  /-- STREAM, the stream memory (R39). -/
  stream : Memory
  /-- PENDING: none, or the accepted command word not yet completed (R14, R36). -/
  pending : Option Word
  /-- The implementation parameters (R6). -/
  params : Params
  /-- What acts next, in order; when it is empty the unit completes what is pending and then waits. -/
  schedule : List Turn
  /-- What the host's last read returned. -/
  response : Response
  /-- How many free values have been drawn. -/
  draws : Nat
  deriving DecidableEq, Repr

/-- The state after power-on of a unit with parameters `p` (R41, R137): every register at its reset value, PENDING
none, every byte of BUF and STREAM undefined; nothing scheduled, nothing read, nothing drawn. -/
def State.resetOf (p : Params) : State :=
  { keyX0 := 0, keyMu := 0, streamLen := 0, geom := 0, rounds := 0, weights := 0, mode := 0, cursor := 0,
    err := false, errCode := 0, buf := [], stream := [], pending := none,
    params := p, schedule := [], response := .none, draws := 0 }

/-- The machine right after reset (R41), with the parameters of log 1. -/
def State.reset : State := State.resetOf Params.chosen

end Sys2Proof.Machine
end

