-- ==== Sys2Proof/Machine/Flags.lean ====
section
/-! DEFINITION. STATUS: its flags, its error codes and the word a read returns (10_state.md R17, R20 to R22;
60_exceptions.md R120). BUSY and ERR are the unit's only flags (R34). -/

namespace Sys2Proof.Machine

/-- The code of each error (R120). -/
def ErrorCode.bits : ErrorCode → Byte
  | .illegalOpcode => 0x01
  | .reservedBits => 0x02
  | .busyAccess => 0x03
  | .zeroBlock => 0x10
  | .geomRange => 0x11
  | .zeroRounds => 0x12
  | .badWeight => 0x13
  | .cursorRange => 0x14
  | .streamRange => 0x15
  | .degenerateKey => 0x16
  | .badSelector => 0x17
  | .numericRange => 0x20

/-- STATUS.BUSY: "1 exactly when PENDING ≠ none" (R20). -/
def State.busy (s : State) : Bool := s.pending.isSome

/-- The word a read of STATUS returns (R17): BUSY in bit 0, ERR in bit 1, ERRCODE in bits 15:8, the rest 0. -/
def State.statusWord (s : State) : Word :=
  0#48 ++ s.errCode ++ 0#6 ++ BitVec.ofBool s.err ++ BitVec.ofBool s.busy

end Sys2Proof.Machine
end

