-- ==== Sys2Proof/Machine/Ops.lean ====
section
/-! DEFINITION. The named operations over memory, registers and errors that every meaning is written with
(00_scope.md R9 to R11, 10_state.md R33, R40, R41; 60_exceptions.md R121, R126). -/

namespace Sys2Proof.Machine

/-! ### One update per piece of state -/

def State.setBuf (s : State) (m : Memory) : State := { s with buf := m }
def State.setStream (s : State) (m : Memory) : State := { s with stream := m }
def State.setPending (s : State) (w : Option Word) : State := { s with pending := w }
def State.setCursor (s : State) (v : Word) : State := { s with cursor := v }
def State.setError (s : State) (e : Bool) (c : Byte) : State := { s with err := e, errCode := c }
def State.setSchedule (s : State) (l : List Turn) : State := { s with schedule := l }
def State.setResponse (s : State) (r : Response) : State := { s with response := r }
def State.setDraws (s : State) (n : Nat) : State := { s with draws := n }

/-! ### Byte memories -/

/-- What byte `a` holds: none while it is undefined (R40). -/
def Memory.read : Memory → Nat → Option Byte
  | [], _ => none
  | (x, v) :: m, a => if x = a then some v else Memory.read m a

/-- Write one byte, which makes it defined (R40); the list stays in rising order. -/
def Memory.write : Memory → Nat → Byte → Memory
  | [], a, b => [(a, b)]
  | (x, v) :: m, a, b =>
    if a < x then (a, b) :: (x, v) :: m
    else if a = x then (a, b) :: m
    else (x, v) :: Memory.write m a b

/-- Every address of the list is above `a`. -/
def Memory.above (a : Nat) : Memory → Bool
  | [] => true
  | (x, _) :: m => decide (a < x) && Memory.above a m

/-- The canonical form: addresses strictly rising. An unlisted byte has no value, so no entry can equal it. -/
def Memory.wf : Memory → Bool
  | [] => true
  | (x, _) :: m => Memory.above x m && Memory.wf m

/-- Every listed address is below the capacity `n` (R38, R39). -/
def Memory.within (n : Nat) : Memory → Bool
  | [] => true
  | (x, _) :: m => decide (x < n) && Memory.within n m

/-- Read the bytes at a list of addresses; none when one of them is undefined. -/
def Memory.readAll (m : Memory) : List Nat → Option (List Byte)
  | [] => some []
  | a :: as =>
    match m.read a, Memory.readAll m as with
    | some b, some bs => some (b :: bs)
    | _, _ => none

/-- Write a list of (address, byte) pairs, in order. -/
def Memory.writeAll (m : Memory) : List (Nat × Byte) → Memory
  | [] => m
  | (a, b) :: ps => Memory.writeAll (m.write a b) ps

/-- Write bytes at consecutive addresses from `a`. -/
def Memory.writeFrom (m : Memory) (a : Nat) : List Byte → Memory
  | [] => m
  | b :: bs => Memory.writeFrom (m.write a b) (a + 1) bs

/-! ### Registers -/

/-- The bits of a register that are not RAZ/WI (R17). -/
def Reg.keep : Reg → Word
  | .status => 0xFF03
  | .streamLen => 0x00000000FFFFFFFF
  | .geom => 0x00000000FFFFFFFF
  | .rounds => 0x000000000000FFFF
  | .weights => 0x0000FFFFFFFFFFFF
  | .mode => 0x0000000000000001
  | .id | .cap | .cmd | .keyX0 | .keyMu | .cursor => 0xFFFFFFFFFFFFFFFF

/-- ID (R18). -/
def idWord : Word := 0x4843494500000001

/-- CAP (R19): {L_MAX[31:0], SN_MAX[15:0], SM_MAX[15:0]}. -/
def capWord (p : Params) : Word :=
  BitVec.ofNat 32 p.lMax ++ BitVec.ofNat 16 p.snMax ++ BitVec.ofNat 16 p.smMax

/-- What a register read returns (R118, R17 to R33): CMD reads 0, RAZ/WI bits read 0. -/
def State.readReg (s : State) (r : Reg) : Word :=
  match r with
  | .id => idWord
  | .cap => capWord s.params
  | .status => s.statusWord
  | .cmd => 0
  | .keyX0 => s.keyX0
  | .keyMu => s.keyMu
  | .streamLen => s.streamLen &&& Reg.keep .streamLen
  | .geom => s.geom &&& Reg.keep .geom
  | .rounds => s.rounds &&& Reg.keep .rounds
  | .weights => s.weights &&& Reg.keep .weights
  | .mode => s.mode &&& Reg.keep .mode
  | .cursor => s.cursor

/-- Store into an RW register with its RAZ/WI bits forced to 0 (R33). ID and CAP ignore the write (R18, R19);
STATUS and CMD have rules of their own (R23, R24) and hold nothing here. -/
def State.storeReg (s : State) (r : Reg) (v : Word) : State :=
  match r with
  | .keyX0 => { s with keyX0 := v }
  | .keyMu => { s with keyMu := v }
  | .streamLen => { s with streamLen := v &&& Reg.keep .streamLen }
  | .geom => { s with geom := v &&& Reg.keep .geom }
  | .rounds => { s with rounds := v &&& Reg.keep .rounds }
  | .weights => { s with weights := v &&& Reg.keep .weights }
  | .mode => { s with mode := v &&& Reg.keep .mode }
  | .cursor => { s with cursor := v }
  | .id | .cap | .status | .cmd => s

/-! ### Errors: entry and return -/

/-- `raise Error(code)` (R11, R121): sets ERR and ERRCODE if ERR = 0 and leaves them if ERR = 1, so the first error
wins (R122). Nothing is saved and nothing is redirected (R125). -/
def State.raise (s : State) (c : ErrorCode) : State :=
  if s.err then s else s.setError true c.bits

/-- The return from an error (R23, R126): ERR <- 0 and ERRCODE <- 0x00; nothing is restored. -/
def State.clearError (s : State) : State := s.setError false 0

/-- PENDING <- none: a command is over (R53, R121). -/
def State.finish (s : State) : State := s.setPending none

/-- Run `effect` unless one of the command's own checks failed; a failed check raises its error and the command
has no other effect (R121, R123). -/
def State.checked (s : State) (failed : Option ErrorCode) (effect : Host.Outcome State Fault Refusal) :
    Host.Outcome State Fault Refusal :=
  match failed with
  | some c => .next (s.raise c).finish
  | none => effect

/-- The reset of R41 and R113: every register at its reset value, PENDING none, BUF and STREAM undefined. The
parameters stay, and so do the model's own fields, which are not the unit's (log 14). -/
def State.afterReset (s : State) : State :=
  { State.resetOf s.params with schedule := s.schedule, response := s.response, draws := s.draws }

end Sys2Proof.Machine
end

