-- ==== Sys2Proof/Machine/Operands.lean ====
section
/-! DEFINITION. The operands commands take from registers, block cells and lines, and stream bits
(10_state.md R27 to R32, 20_memory.md R47 and R48, 41_rotation.md R84 to R86). -/

namespace Sys2Proof.Machine

/-! ### Register fields -/

/-- L, bits [31:0] of STREAM_LEN (R27). -/
def State.len (s : State) : Nat := (s.streamLen.extractLsb' 0 32).toNat

/-- S_M, bits [15:0] of GEOM (R28). -/
def State.sm (s : State) : Nat := (s.geom.extractLsb' 0 16).toNat

/-- S_N, bits [31:16] of GEOM (R28). -/
def State.sn (s : State) : Nat := (s.geom.extractLsb' 16 16).toNat

/-- N_ITER, bits [15:0] of ROUNDS (R29). -/
def State.nIter (s : State) : Nat := (s.rounds.extractLsb' 0 16).toNat

/-- ALPHA, bits [15:0] of WEIGHTS (R30). -/
def State.alpha (s : State) : Nat := (s.weights.extractLsb' 0 16).toNat

/-- BETA, bits [31:16] of WEIGHTS (R30). -/
def State.beta (s : State) : Nat := (s.weights.extractLsb' 16 16).toNat

/-- GAMMA, bits [47:32] of WEIGHTS (R30). -/
def State.gamma (s : State) : Nat := (s.weights.extractLsb' 32 16).toNat

/-- MODE, bit 0 of MODE: true selects Decrypt (R31). -/
def State.decrypt (s : State) : Bool := s.mode.getLsbD 0

/-! ### Stream bits -/

/-- bit(n) for a stream of L bits (R48): position n mod L, held in bit 7 − (m mod 8) of byte m div 8; none when
that byte is undefined (R40). -/
def streamBit (stream : Memory) (len n : Nat) : Option Bool :=
  (stream.read (n % len / 8)).map fun b => b.getLsbD (7 - n % len % 8)

/-! ### Lines of an M × N block -/

/-- A block cell: row and column. -/
abbrev Cell := Nat × Nat

/-- The BUF byte of a cell, row-major at the current S_N (R47). -/
def cellAddr (n : Nat) (c : Cell) : Nat := c.1 * n + c.2

/-- ROW(i), in increasing column (R84). -/
def rowLine (n i : Nat) : List Cell := (List.range n).map fun j => (i, j)

/-- COL(j), in increasing row (R84). -/
def colLine (m j : Nat) : List Cell := (List.range m).map fun i => (i, j)

/-- ADIAG(k), in decreasing row from i_hi = min(k, M−1) to i_lo = max(0, k−N+1) (R85, conflict C1). -/
def antiDiagLine (m n k : Nat) : List Cell :=
  let hi := min k (m - 1)
  let lo := k + 1 - n
  (List.range (hi + 1 - lo)).map fun t => (hi - t, k - (hi - t))

/-- DIAG(l), in increasing row from i_lo = max(0, l) to i_hi = min(M−1, N−1+l) (R86). -/
def diagLine (m n : Nat) (l : Int) : List Cell :=
  let lo := max 0 l
  let hi := min ((m : Int) - 1) ((n : Int) - 1 + l)
  (List.range (hi - lo + 1).toNat).map fun t => ((lo + t).toNat, (lo + t - l).toNat)

/-- The BUF bytes of a line, in its order. -/
def lineAddrs (n : Nat) (line : List Cell) : List Nat := line.map (cellAddr n)

end Sys2Proof.Machine
end

