-- ==== Sys2Proof/Machine/Rotate.lean ====
section
/-! DEFINITION. The RotationEngine: Rotate and the commands ROTR, ROTC, ROTA, ROTD (41_rotation.md R84 to R96). -/

namespace Sys2Proof.Machine

/-- The effective shift on a line of length n (R89): p mod n, or n − (p mod n) when d = 1. -/
def effectiveShift (n p : Nat) (d : Bool) : Nat := if d then n - p % n else p % n

/-- The values after a rotation by s: position t takes v[(t + s) mod n] (R89). -/
def rotated (v : List Byte) (s : Nat) : List Byte :=
  (List.range v.length).map fun t => v.getD ((t + s) % v.length) 0

/-- Rotate(line, p, d) (R89) on the BUF bytes `addrs`: read all, then write all. None when a byte of the line is
undefined (R40). -/
def rotateLine (addrs : List Nat) (p : Nat) (d : Bool) (m : Memory) : Option Memory :=
  match m.readAll addrs with
  | none => none
  | some v => some (m.writeAll (addrs.zip (rotated v (effectiveShift addrs.length p d))))

/-- The checks every rotation makes, in order (R92); `selOk` says whether the selector is in its family's range. -/
def rotCheck (s : State) (selOk : Bool) : Option ErrorCode :=
  if s.sm = 0 ∨ s.sn = 0 then some .zeroBlock
  else if s.params.smMax < s.sm ∨ s.params.snMax < s.sn then some .geomRange
  else if selOk = false then some .badSelector
  else none

/-- ROTR: 0 ≤ i ≤ S_M − 1 (R92). -/
def State.rowOk (s : State) (row : Nat) : Bool := decide (row < s.sm)

/-- ROTC: 0 ≤ j ≤ S_N − 1 (R92). -/
def State.colOk (s : State) (col : Nat) : Bool := decide (col < s.sn)

/-- ROTA: 0 ≤ k ≤ S_M + S_N − 2 (R92). -/
def State.antiDiagOk (s : State) (k : Nat) : Bool := decide (k + 2 ≤ s.sm + s.sn)

/-- ROTD: 1 − S_N ≤ l ≤ S_M − 1 (R92). -/
def State.diagOk (s : State) (l : Int) : Bool := decide (1 - (s.sn : Int) ≤ l ∧ l ≤ (s.sm : Int) - 1)

/-- The body common to the four commands: the checks of R92, then Rotate on the line's bytes of BUF. -/
def rotateCommand (s : State) (selOk : Bool) (line : List Cell) (p : Nat) (d : Bool) :
    Host.Outcome State Fault Refusal :=
  s.checked (rotCheck s selOk)
    (match rotateLine (lineAddrs s.sn line) p d s.buf with
     | none => .fault .undefinedRead
     | some m => .next (s.setBuf m).finish)

/-- ROTR i, p, d (R93). -/
def execRotr (row p : Nat) (d : Bool) (s : State) : Host.Outcome State Fault Refusal :=
  rotateCommand s (s.rowOk row) (rowLine s.sn row) p d

/-- ROTC j, p, d (R94). -/
def execRotc (col p : Nat) (d : Bool) (s : State) : Host.Outcome State Fault Refusal :=
  rotateCommand s (s.colOk col) (colLine s.sm col) p d

/-- ROTA k, p, d (R95). -/
def execRota (k p : Nat) (d : Bool) (s : State) : Host.Outcome State Fault Refusal :=
  rotateCommand s (s.antiDiagOk k) (antiDiagLine s.sm s.sn k) p d

/-- ROTD l, p, d (R96). -/
def execRotd (l : Int) (p : Nat) (d : Bool) (s : State) : Host.Outcome State Fault Refusal :=
  rotateCommand s (s.diagOk l) (diagLine s.sm s.sn l) p d

end Sys2Proof.Machine
end

