-- ==== Sys2Proof/Machine/Apply.lean ====
section
/-! DEFINITION. The SubHCIE engine: APPLY in Encrypt and Decrypt mode (42_subhcie.md R97 to R112). -/

namespace Sys2Proof.Machine

/-- The operands of APPLY (R97). -/
structure Engine where
  sm : Nat
  sn : Nat
  nIter : Nat
  alpha : Nat
  beta : Nat
  gamma : Nat
  decrypt : Bool
  c0 : Nat
  len : Nat
  stream : Memory
  deriving DecidableEq, Repr

/-- The operands as APPLY reads them (R97). -/
def State.engine (s : State) : Engine :=
  { sm := s.sm, sn := s.sn, nIter := s.nIter, alpha := s.alpha, beta := s.beta, gamma := s.gamma,
    decrypt := s.decrypt, c0 := s.cursor.toNat, len := s.len, stream := s.stream }

/-- RC = 3·S_M + 3·S_N − 2 (R98). -/
def Engine.roundCost (e : Engine) : Nat := 3 * e.sm + 3 * e.sn - 2

/-- CC = N_ITER · RC (R98). -/
def Engine.callCost (e : Engine) : Nat := e.nIter * e.roundCost

/-- bit(n) of this call (R48). -/
def Engine.bit (e : Engine) (n : Nat) : Option Bool := streamBit e.stream e.len n

/-- q(r) = C0 + r · RC (R101): both modes use the cursor at entry (conflicts C2, C3). -/
def Engine.roundStart (e : Engine) (r : Nat) : Nat := e.c0 + r * e.roundCost

/-- p(r) = ALPHA + BETA · bit(q(r)) + GAMMA · bit(q(r) + 1) (R101). -/
def Engine.roundShift (e : Engine) (r : Nat) : Option Nat :=
  match e.bit (e.roundStart r), e.bit (e.roundStart r + 1) with
  | some b0, some b1 => some (e.alpha + e.beta * b0.toNat + e.gamma * b1.toNat)
  | _, _ => none

/-- One rotation of a round: its line, and the stream position of its direction bit. -/
structure LineTurn where
  line : List Cell
  pos : Nat
  deriving DecidableEq, Repr

/-- Rows 0 to S_M − 1 with dR(i) = q + i (R101, R103). -/
def Engine.rowPhase (e : Engine) (q : Nat) : List LineTurn :=
  (List.range e.sm).map fun i => { line := rowLine e.sn i, pos := q + i }

/-- Columns 0 to S_N − 1 with dC(j) = q + S_M + j (R101, R103). -/
def Engine.colPhase (e : Engine) (q : Nat) : List LineTurn :=
  (List.range e.sn).map fun j => { line := colLine e.sm j, pos := q + e.sm + j }

/-- Anti-diagonals 0 to S_M + S_N − 2 with dA(k) = q + S_M + S_N + k (R101, R103). -/
def Engine.antiDiagPhase (e : Engine) (q : Nat) : List LineTurn :=
  (List.range (e.sm + e.sn - 1)).map fun k =>
    { line := antiDiagLine e.sm e.sn k, pos := q + e.sm + e.sn + k }

/-- Diagonals l = 1 − S_N to S_M − 1 with dD(l) = q + 2·S_M + 3·S_N + l − 2 (R101, R103). -/
def Engine.diagPhase (e : Engine) (q : Nat) : List LineTurn :=
  (List.range (e.sm + e.sn - 1)).map fun t =>
    let l : Int := 1 - (e.sn : Int) + t
    { line := diagLine e.sm e.sn l, pos := ((q : Int) + 2 * e.sm + 3 * e.sn + l - 2).toNat }

/-- The rotations of a round in order: rows, columns, anti-diagonals, diagonals in Encrypt mode (R103), the phases
the other way round in Decrypt mode (R106, R107). -/
def Engine.roundLines (e : Engine) (q : Nat) : List LineTurn :=
  if e.decrypt then e.diagPhase q ++ e.antiDiagPhase q ++ e.colPhase q ++ e.rowPhase q
  else e.rowPhase q ++ e.colPhase q ++ e.antiDiagPhase q ++ e.diagPhase q

/-- Run rotations by the shift p; each direction bit is the stream's, flipped in Decrypt mode (R103, R107). None
when a byte that is read is undefined (R112). -/
def Engine.runLines (e : Engine) (p : Nat) : List LineTurn → Memory → Option Memory
  | [], m => some m
  | x :: xs, m =>
    match e.bit x.pos with
    | none => none
    | some b =>
      match rotateLine (lineAddrs e.sn x.line) p (b ^^ e.decrypt) m with
      | none => none
      | some m' => Engine.runLines e p xs m'

/-- Round r on the block (R103, R107). -/
def Engine.runRound (e : Engine) (r : Nat) (m : Memory) : Option Memory :=
  match e.roundShift r with
  | none => none
  | some p => e.runLines p (e.roundLines (e.roundStart r)) m

/-- The rounds in order: 0 to N_ITER − 1 in Encrypt mode, N_ITER − 1 down to 0 in Decrypt mode (R105, R106). -/
def Engine.roundOrder (e : Engine) : List Nat :=
  if e.decrypt then (List.range e.nIter).reverse else List.range e.nIter

/-- Run a list of rounds. -/
def Engine.runRounds (e : Engine) : List Nat → Memory → Option Memory
  | [], m => some m
  | r :: rs, m =>
    match e.runRound r m with
    | none => none
    | some m' => Engine.runRounds e rs m'

/-- The cursor after the call: C0 + CC in Encrypt mode (R104), C0 − CC in Decrypt mode (R108, conflict C4). -/
def Engine.cursorAfter (e : Engine) : Word :=
  if e.decrypt then BitVec.ofNat 64 (e.c0 - e.callCost) else BitVec.ofNat 64 (e.c0 + e.callCost)

/-- The cursor range of R100: C0 + CC ≤ 2^64 − 1, and C0 ≥ CC in Decrypt mode. -/
def Engine.cursorOk (e : Engine) : Bool :=
  decide (e.c0 + e.callCost ≤ 2 ^ 64 - 1) && (!e.decrypt || decide (e.callCost ≤ e.c0))

/-- APPLY's checks, in order (R99). -/
def applyCheck (s : State) : Option ErrorCode :=
  if s.sm = 0 ∨ s.sn = 0 then some .zeroBlock
  else if s.params.smMax < s.sm ∨ s.params.snMax < s.sn then some .geomRange
  else if s.nIter = 0 then some .zeroRounds
  else if s.alpha = 0 ∨ s.beta = 0 ∨ s.gamma = 0 then some .badWeight
  else if ¬(1 ≤ s.len ∧ s.len ≤ s.params.lMax) then some .streamRange
  else if s.engine.cursorOk = false then some .cursorRange
  else none

/-- APPLY (R105 with MODE = 0, R109 with MODE = 1): the checks of R99, the rounds on BUF, then the cursor. -/
def execApply (s : State) : Host.Outcome State Fault Refusal :=
  s.checked (applyCheck s)
    (match s.engine.runRounds s.engine.roundOrder s.buf with
     | none => .fault .undefinedRead
     | some m => .next ((s.setBuf m).setCursor s.engine.cursorAfter).finish)

end Sys2Proof.Machine
end

