-- ==== Sys2Proof/Machine/Control.lean ====
section
/-! DEFINITION. The control commands NOP and SRST (43_control.md R113, R114). -/

namespace Sys2Proof.Machine

/-- NOP (R114): nothing. It never sets PENDING; were it found pending, it would be over (log 9). -/
def execNop (s : State) : Host.Outcome State Fault Refusal := .next s.finish

/-- SRST (R113): a pending command is abandoned, every register takes its reset value, BUF and STREAM become
undefined. -/
def execSrst (s : State) : Host.Outcome State Fault Refusal := .next s.afterReset

end Sys2Proof.Machine
end

