-- ==== Sys2Proof/Machine/Float64.lean ====
section
/-! DEFINITION. IEEE 754 binary64 as GEN uses it (00_scope.md R12): product and difference, each computed exactly
on integers and rounded once, to nearest with ties to even. The layout is the one R12 marks as general knowledge
(93 G1; log 10). -/

namespace Sys2Proof.Machine

/-- The least positive binary64 value is 2^−1074: magnitudes are counted in that unit. -/
def minExp : Nat := 1074

/-- The encoding of +infinity; a larger encoding without its sign bit is a NaN. -/
def infBits : Nat := 2047 * 2 ^ 52

/-- The encoding of 1.0. -/
def oneWord : Word := 0x3FF0000000000000

/-- The NaN an invalid operation gives. IEEE 754 leaves its payload open, and nothing in the unit can show it
(log 10). -/
def nanWord : Word := 0x7FF8000000000000

/-- The sign, bit 63. -/
def fSign (x : Word) : Bool := x.getLsbD 63

/-- The encoding without its sign. -/
def fBits (x : Word) : Nat := x.toNat % 2 ^ 63

/-- Is the value a NaN? -/
def fIsNaN (x : Word) : Bool := decide (infBits < fBits x)

/-- Is the value an infinity? -/
def fIsInf (x : Word) : Bool := decide (fBits x = infBits)

/-- The magnitude of a finite value, in units of 2^−1074: exponent field E in bits 62:52, fraction F in 51:0,
F if E = 0 and (2^52 + F) · 2^(E−1) otherwise. -/
def fMag (x : Word) : Nat :=
  let e := fBits x / 2 ^ 52
  let f := fBits x % 2 ^ 52
  if e = 0 then f else (2 ^ 52 + f) * 2 ^ (e - 1)

/-- The encoding, without sign, of the binary64 value nearest to n · 2^−(1074+k), ties to even; infinity where the
rounded value overflows. `sh` low bits fall away: down to 53 significant ones, and to no finer a unit than
2^−1074. -/
def roundMag (n k : Nat) : Nat :=
  let sh := max k (Nat.log2 n - 52)
  let q := n / 2 ^ sh
  let r := n % 2 ^ sh
  let up := if 2 ^ sh < 2 * r ∨ (2 * r = 2 ^ sh ∧ q % 2 = 1) then 1 else 0
  min ((sh - k) * 2 ^ 52 + (q + up)) infBits

/-- A sign and an encoding without sign. -/
def fPack (neg : Bool) (bits : Nat) : Word := BitVec.ofNat 64 ((if neg then 2 ^ 63 else 0) + bits)

/-- fl_mul (R12): the binary64 product. -/
def flMul (a b : Word) : Word :=
  let neg := fSign a ^^ fSign b
  if fIsNaN a || fIsNaN b then nanWord
  else if fIsInf a || fIsInf b then
    if fBits a = 0 ∨ fBits b = 0 then nanWord else fPack neg infBits
  else fPack neg (roundMag (fMag a * fMag b) minExp)

/-- The signed value of a finite encoding, in units of 2^−1074. -/
def fVal (x : Word) : Int := if fSign x then -(fMag x : Int) else fMag x

/-- fl_sub (R12): the binary64 difference. A zero difference is +0 but for (−0) − (+0). -/
def flSub (a b : Word) : Word :=
  if fIsNaN a || fIsNaN b then nanWord
  else if fIsInf a then
    if fIsInf b && (fSign a == fSign b) then nanWord else a
  else if fIsInf b then fPack (!fSign b) infBits
  else
    let v := fVal a - fVal b
    let neg := if v = 0 then fSign a && !fSign b else decide (v < 0)
    fPack neg (roundMag v.natAbs 0)

/-- The test of R76 and R80: NaN, x < 0.0 or x > 1.0. Negative zero is not below 0.0. -/
def outsideUnit (x : Word) : Bool :=
  fIsNaN x || (fSign x && decide (fBits x ≠ 0)) || (!fSign x && decide (oneWord.toNat < fBits x))

/-- bits64 (R71): the binary64 encoding of the decimal digits · 10^−places, rounded to nearest. The quotient is
kept to two bits below the least unit and one sticky bit, which decides every tie as the exact value does. -/
def bits64 (neg : Bool) (digits places : Nat) : Word :=
  let scaled := digits * 2 ^ (minExp + 2)
  let sticky := if scaled % 10 ^ places = 0 then 0 else 1
  fPack neg (roundMag (2 * (scaled / 10 ^ places) + sticky) 3)

end Sys2Proof.Machine
end

