-- ==== Sys2Proof/Machine/Gen.lean ====
section
/-! DEFINITION. GEN, the BitSequenceGenerator (40_bitgen.md R72 to R83). -/

namespace Sys2Proof.Machine

/-- One logistic step (R73): fl_mul(fl_mul(mu, x), fl_sub(1.0, x)), in that grouping and order. -/
def logistic (mu x : Word) : Word := flMul (flMul mu x) (flSub oneWord x)

/-- A valid key (R74), on the raw bits: 0 < x0 < 1 and 0 < mu ≤ 4. -/
def validKey (x0 mu : Word) : Bool :=
  decide (1 ≤ x0.toNat ∧ x0.toNat ≤ 0x3FEFFFFFFFFFFFFF ∧ 1 ≤ mu.toNat ∧ mu.toNat ≤ 0x4010000000000000)

/-- The loop of R77 on a fraction f counted in units of 2^−1074: double it, emit its integer part, keep the
rest; `b` gathers the emitted bits, the first one most significant. -/
def extractBits : Nat → Nat → Nat → Nat
  | 0, _, b => b
  | n + 1, f, b =>
    let e := if 2 ^ minExp ≤ 2 * f then 1 else 0
    extractBits n (2 * f - e * 2 ^ minExp) (2 * b + e)

/-- byte(x) for 0 ≤ x ≤ 1 (R77): eight bits of frac(x), where frac(1) = 0 (R78). -/
def byteOf (x : Word) : Byte := BitVec.ofNat 8 (extractBits 8 (fMag x % 2 ^ minExp) 0)

/-- What a run of the generator gives: the bytes it has written, and whether it stopped on NUMERIC_RANGE. -/
structure GenRun where
  bytes : List Byte
  aborted : Bool
  deriving DecidableEq, Repr

/-- The loop of R76 for `n` further bytes, `x` being the iterate of the next one. -/
def genLoop (mu : Word) : Nat → Word → GenRun
  | 0, _ => { bytes := [], aborted := false }
  | n + 1, x =>
    if outsideUnit x then { bytes := [], aborted := true }
    else
      let rest := genLoop mu n (logistic mu x)
      { bytes := byteOf x :: rest.bytes, aborted := rest.aborted }

/-- NB = ceil(L / 8) (R76). -/
def State.genBytes (s : State) : Nat := (s.len + 7) / 8

/-- The iterate byte 0 comes from: x0 itself when GEN_EMIT_X0 = 1, the first step from it otherwise (R79). -/
def State.firstIterate (s : State) : Word :=
  if s.params.genEmitX0 then s.keyX0 else logistic s.keyMu s.keyX0

/-- The whole loop of R76. -/
def State.genRun (s : State) : GenRun := genLoop s.keyMu s.genBytes s.firstIterate

/-- GEN's checks, in order (R75). -/
def genCheck (s : State) : Option ErrorCode :=
  if ¬(1 ≤ s.len ∧ s.len ≤ s.params.lMax) then some .streamRange
  else if validKey s.keyX0 s.keyMu = false then some .degenerateKey
  else none

/-- GEN (R83): the checks of R75 and then the loop of R76. On NUMERIC_RANGE the bytes before the failing one stay
written and the error is raised at completion (R80). -/
def execGen (s : State) : Host.Outcome State Fault Refusal :=
  s.checked (genCheck s)
    (let written := s.setStream (s.stream.writeFrom 0 s.genRun.bytes)
     .next (if s.genRun.aborted then (written.raise .numericRange).finish else written.finish))

end Sys2Proof.Machine
end

