-- ==== Sys2Proof/Machine/Dispatch.lean ====
section
/-! DEFINITION. exec: the command's step, one arm per constructor. -/

namespace Sys2Proof.Machine

/-- The unit runs command `i`: its checks (R123 case 6), its whole effect in one transition, PENDING <- none
(20_memory.md R53). -/
def exec (i : Instr) (s : State) : Host.Outcome State Fault Refusal :=
  match i with
  | .nop => Sys2Proof.Machine.execNop s
  | .srst => Sys2Proof.Machine.execSrst s
  | .gen => Sys2Proof.Machine.execGen s
  | .rotr row p d => Sys2Proof.Machine.execRotr row p d s
  | .rotc col p d => Sys2Proof.Machine.execRotc col p d s
  | .rota k p d => Sys2Proof.Machine.execRota k p d s
  | .rotd l p d => Sys2Proof.Machine.execRotd l p d s
  | .apply => Sys2Proof.Machine.execApply s

end Sys2Proof.Machine
end

