-- ==== Sys2Proof/Machine/Port.lean ====
section
/-! DEFINITION. The host port: acceptance of a command (60_exceptions.md R123), the host's transactions
(43_control.md R115 to R118; 20_memory.md R42 to R45, R54, R55), and the unit's step (R53). -/

namespace Sys2Proof.Machine

/-! ### Acceptance of a CMD write -/

/-- The command's own checks (R123 case 6). -/
def commandCheck (i : Instr) (s : State) : Option ErrorCode :=
  match i with
  | .nop => none
  | .srst => none
  | .gen => genCheck s
  | .rotr row _ _ => rotCheck s (s.rowOk row)
  | .rotc col _ _ => rotCheck s (s.colOk col)
  | .rota k _ _ => rotCheck s (s.antiDiagOk k)
  | .rotd l _ _ => rotCheck s (s.diagOk l)
  | .apply => applyCheck s

/-- Does the command stay pending after acceptance? NOP completes at once and SRST is never pending (R123 cases 1
and 7, R114, R113). -/
def staysPending (i : Instr) : Bool :=
  match i with
  | .nop => false
  | .srst => false
  | .gen => true
  | .rotr _ _ _ => true
  | .rotc _ _ _ => true
  | .rota _ _ _ => true
  | .rotd _ _ _ => true
  | .apply => true

/-- Cases 6 and 7 of R123, for an idle unit with ERR = 0 and a decoded command: the first failing check raises its
error; NOP and SRST run at once; every other command becomes pending. -/
def acceptCommand (i : Instr) (w : Word) (s : State) : Host.Outcome State Fault Refusal :=
  match commandCheck i s with
  | some c => .next (s.raise c)
  | none => if staysPending i then .next (s.setPending (some w)) else exec i s

/-- A host write of w to CMD (R123): SRST is always taken; ERR = 1 refuses with no effect; BUSY = 1 raises
BUSY_ACCESS; then an illegal opcode, a reserved bit, and the command's own checks. -/
def submit (w : Word) (s : State) : Host.Outcome State Fault Refusal :=
  if opField w = 0x01 then exec .srst s
  else if s.err then .next s
  else if s.busy then .next (s.raise .busyAccess)
  else
    match decode w with
    | .illegalOpcode => .next (s.raise .illegalOpcode)
    | .reservedBits => .next (s.raise .reservedBits)
    | .command i => acceptCommand i w s

/-! ### Host transactions -/

/-- A register write, in the order of cases of R115; so a write to ID or CAP while BUSY = 1 raises BUSY_ACCESS
(DEDUCED, log 16, unsafe). -/
def writeRegister (r : Reg) (v : Word) (s : State) : Host.Outcome State Fault Refusal :=
  if r = .cmd then submit v s
  else if r = .status then .next (if v.getLsbD 1 then s.clearError else s)
  else if s.busy then .next (s.raise .busyAccess)
  else .next (s.storeReg r v)

/-- A BUF byte write (R116): dropped with BUSY_ACCESS while BUSY = 1 (R54). -/
def writeBuf (a : Nat) (b : Byte) (s : State) : Host.Outcome State Fault Refusal :=
  if s.busy then .next (s.raise .busyAccess) else .next (s.setBuf (s.buf.write a b))

/-- A STREAM byte write (R117): dropped with BUSY_ACCESS while BUSY = 1 (R54). -/
def writeStream (t : Nat) (b : Byte) (s : State) : Host.Outcome State Fault Refusal :=
  if s.busy then .next (s.raise .busyAccess) else .next (s.setStream (s.stream.write t b))

/-- A register read (R118): it returns the current value in every state (R55) and has no side effect. -/
def readRegister (r : Reg) (s : State) : Host.Outcome State Fault Refusal :=
  .next (s.setResponse (.word (s.readReg r)))

/-- A BUF or STREAM byte read (R116, R117). While BUSY = 1 the byte is unspecified, a free value (R55, log 3);
otherwise an undefined byte is UNDEFINED_READ (R40, log 2). -/
def readByte (m : Memory) (a : Nat) (s : State) : Host.Outcome State Fault Refusal :=
  if s.busy then .next ((s.setResponse (.byte (Config.freeByte s.draws))).setDraws (s.draws + 1))
  else
    match m.read a with
    | none => .fault .undefinedRead
    | some b => .next (s.setResponse (.byte b))

/-! ### The address map -/

/-- The register at an offset of the REG window (R17); every other offset is unmapped. -/
def Reg.ofOffset (o : Nat) : Option Reg :=
  if o = 0x000 then some .id
  else if o = 0x008 then some .cap
  else if o = 0x010 then some .status
  else if o = 0x018 then some .cmd
  else if o = 0x020 then some .keyX0
  else if o = 0x028 then some .keyMu
  else if o = 0x030 then some .streamLen
  else if o = 0x038 then some .geom
  else if o = 0x040 then some .rounds
  else if o = 0x048 then some .weights
  else if o = 0x050 then some .mode
  else if o = 0x058 then some .cursor
  else none

/-- The offset of a register (R17). -/
def Reg.offset : Reg → Nat
  | .id => 0x000
  | .cap => 0x008
  | .status => 0x010
  | .cmd => 0x018
  | .keyX0 => 0x020
  | .keyMu => 0x028
  | .streamLen => 0x030
  | .geom => 0x038
  | .rounds => 0x040
  | .weights => 0x048
  | .mode => 0x050
  | .cursor => 0x058

/-- What an access at relative address `o` reaches (R42 to R45): a register by a 64-bit access at its offset (so an
aligned one, R49), a byte below its memory's capacity by an 8-bit access, and nothing otherwise. -/
def resolveRelative (p : Params) (o : Nat) (width : Width) : Option Target :=
  if o ≤ 0xFFF then
    if width = .b64 then (Reg.ofOffset o).map .reg else none
  else if 0x100000 ≤ o ∧ o ≤ 0x1FFFFF then
    if width = .b8 ∧ o - 0x100000 < p.bufBytes then some (.buf (o - 0x100000)) else none
  else if 0x1000000 ≤ o ∧ o ≤ 0x1FFFFFF then
    if width = .b8 ∧ o - 0x1000000 < p.streamBytes then some (.stream (o - 0x1000000)) else none
  else none

/-- Host addresses are relative to UNIT_BASE (R42). -/
def resolve (p : Params) (addr : Nat) (width : Width) : Option Target :=
  if addr < p.unitBase then none else resolveRelative p (addr - p.unitBase) width

/-- What an access does once its target is known (R43, R44). -/
def accessTarget (t : Target) (op : PortOp) (s : State) : Host.Outcome State Fault Refusal :=
  match t, op with
  | .reg r, .read => readRegister r s
  | .reg r, .write v => writeRegister r v s
  | .buf a, .read => readByte s.buf a s
  | .buf a, .write v => writeBuf a (v.extractLsb' 0 8) s
  | .stream a, .read => readByte s.stream a s
  | .stream a, .write v => writeStream a (v.extractLsb' 0 8) s

/-- One host access. A malformed one is refused, as R45 asks of a Lean model (log 7). -/
def hostAccess (x : Access) (s : State) : Host.Outcome State Fault Refusal :=
  match resolve s.params x.addr x.width with
  | none => .refused .malformedAccess
  | some t => accessTarget t x.op s

/-! ### The unit's step -/

/-- The unit's step on the pending word w (R53): it runs the command. No accepted word fails to decode (R123); were
one found pending, its error would be raised at completion (log 8). -/
def runPending (w : Word) (s : State) : Host.Outcome State Fault Refusal :=
  match decode w with
  | .command i => exec i s
  | .illegalOpcode => .next (s.raise .illegalOpcode).finish
  | .reservedBits => .next (s.raise .reservedBits).finish

/-- The unit's turn: it completes the pending command; with none pending it waits (R137). -/
def unitTurn (s : State) : Host.Outcome State Fault Refusal :=
  match s.pending with
  | none => .next s
  | some w => runPending w s

/-- One turn: a host access, the unit's step, or a power-on reset (R13, R137). -/
def takeTurn (t : Turn) (s : State) : Host.Outcome State Fault Refusal :=
  match t with
  | .host x => hostAccess x s
  | .unit => unitTurn s
  | .powerOn => .next s.afterReset

end Sys2Proof.Machine
end

