-- ==== Sys2Proof/Machine/Step.lean ====
section
/-! DEFINITION. The step: one transition of the host, the unit or the power supply (10_state.md R13, 20_memory.md
R53), and how a word is placed where the next step takes its command from (log 5). -/

namespace Sys2Proof.Machine

/-- One transition. The schedule says who acts next; when it is empty the unit completes what is pending (weak
fairness, R146) and then waits for host accesses (R137). -/
def step (s : State) : Host.Outcome State Fault Refusal :=
  match s.schedule with
  | [] => unitTurn s
  | t :: rest => takeTurn t (s.setSchedule rest)

/-- The unit takes its command from PENDING (R53): the word is placed there and the unit's turn is put first, so the
very next step runs it. This stands for a CMD write that has been accepted (log 5). -/
def State.withFetchWord (s : State) (nbits w : Nat) : State :=
  (s.setPending (some (BitVec.ofNat 64 (w % 2 ^ nbits)))).setSchedule (.unit :: s.schedule)

end Sys2Proof.Machine
end

