-- ==== Sys2Proof/Machine/Assembler.lean ====
section
/-! DEFINITION. Host programs in the assembler's abstract syntax (30_encoding.md R70, R71): each line as the turns it
stands for. The text syntax itself (comments, number bases) is outside the model. -/

namespace Sys2Proof.Machine

/-- A decimal literal (−1)^neg · digits · 10^−places, as `key` takes it (R71). -/
structure Decimal where
  neg : Bool
  digits : Nat
  places : Nat
  deriving DecidableEq, Repr

/-- A line of a program (R70) or a pseudo-instruction (R71). -/
inductive Line where
  | wr (r : Reg) (v : Word)
  | rd (r : Reg)
  | wrb (a : Nat) (v : Byte)
  | rdb (a : Nat)
  | wrs (t : Nat) (v : Byte)
  | rds (t : Nat)
  /-- `nop`, `srst`, `gen`, `apply`, `rotr`, `rotc`, `rota`, `rotd`. -/
  | command (i : Instr)
  /-- `poll`: `waits` STATUS reads find BUSY = 1, the unit completes, and one more read finds BUSY = 0 (log 15). -/
  | poll (waits : Nat)
  | clrerr
  | key (x0 mu : Decimal)
  | slen (l : Nat)
  | geom (m n : Nat)
  | rounds (n : Nat)
  | wts (a b g : Nat)
  | cur (v : Nat)
  | enc
  | dec
  | wrblk (a : Nat) (vs : List Byte)
  deriving DecidableEq, Repr

/-- 64-bit write of a register (R70). -/
def portWrite (p : Params) (r : Reg) (v : Word) : Turn :=
  .host { addr := p.unitBase + r.offset, width := .b64, op := .write v }

/-- 64-bit read of a register (R70). -/
def portRead (p : Params) (r : Reg) : Turn :=
  .host { addr := p.unitBase + r.offset, width := .b64, op := .read }

/-- 8-bit write of BUF byte a, at UNIT_BASE + 0x0100000 + a (R116). -/
def portWriteBuf (p : Params) (a : Nat) (v : Byte) : Turn :=
  .host { addr := p.unitBase + 0x100000 + a, width := .b8, op := .write (v.setWidth 64) }

/-- 8-bit read of BUF byte a (R116). -/
def portReadBuf (p : Params) (a : Nat) : Turn :=
  .host { addr := p.unitBase + 0x100000 + a, width := .b8, op := .read }

/-- 8-bit write of STREAM byte t, at UNIT_BASE + 0x1000000 + t (R117). -/
def portWriteStream (p : Params) (t : Nat) (v : Byte) : Turn :=
  .host { addr := p.unitBase + 0x1000000 + t, width := .b8, op := .write (v.setWidth 64) }

/-- 8-bit read of STREAM byte t (R117). -/
def portReadStream (p : Params) (t : Nat) : Turn :=
  .host { addr := p.unitBase + 0x1000000 + t, width := .b8, op := .read }

/-- The word the assembler emits for a rotation (R70): (p << 32) | (sel << 16) | (d << 8) | op. -/
def rotationWord (op sel p : Nat) (d : Bool) : Word :=
  BitVec.ofNat 64 (p <<< 32 ||| sel <<< 16 ||| d.toNat <<< 8 ||| op)

/-- The word the assembler emits for a command (R70); SRST as 0x0000000000000001 (R68). -/
def commandWord : Instr → Word
  | .nop => 0x00
  | .srst => 0x01
  | .gen => 0x10
  | .rotr row p d => rotationWord 0x20 row p d
  | .rotc col p d => rotationWord 0x21 col p d
  | .rota k p d => rotationWord 0x22 k p d
  | .rotd l p d => rotationWord 0x23 (l % 65536).toNat p d
  | .apply => 0x30

/-- A 64-bit write of the number v to register r, refused unless its operands fit (R70; 92_eei_decisions.md D4: "A host
program that relies on a wider field cannot be encoded: it is refused by the assembler"). -/
def fieldWrite (p : Params) (r : Reg) (fits : Bool) (v : Nat) : Option (List Turn) :=
  if fits then some [portWrite p r (BitVec.ofNat 64 v)] else none

/-- The turns of a line with a byte address, refused where the address is beyond the memory's capacity, since such a
program makes a malformed access (R45; log 15). -/
def withinCapacity (fits : Bool) (ts : List Turn) : Option (List Turn) := if fits then some ts else none

/-- Write BUF bytes a, a + 1, … (`wrblk`, R71). -/
def blockWrites (p : Params) (a : Nat) : List Byte → List Turn
  | [] => []
  | v :: vs => portWriteBuf p a v :: blockWrites p (a + 1) vs

/-- bits64 of a decimal literal (R71). -/
def Decimal.word (x : Decimal) : Word := bits64 x.neg x.digits x.places

/-- The turns a line stands for; none where an operand does not fit: "An assembler refuses a line whose operand does not
fit" (R70), and a model refuses a program that makes a malformed access (R45). -/
def assemble (p : Params) (x : Line) : Option (List Turn) :=
  match x with
  | .wr r v => some [portWrite p r v]
  | .rd r => some [portRead p r]
  | .wrb a v => withinCapacity (decide (a < p.bufBytes)) [portWriteBuf p a v]
  | .rdb a => withinCapacity (decide (a < p.bufBytes)) [portReadBuf p a]
  | .wrs k v => withinCapacity (decide (k < p.streamBytes)) [portWriteStream p k v]
  | .rds k => withinCapacity (decide (k < p.streamBytes)) [portReadStream p k]
  | .command i => if i.wellFormed then some [portWrite p .cmd (commandWord i)] else none
  | .poll n => some (List.replicate n (portRead p .status) ++ [.unit, portRead p .status])
  | .clrerr => some [portWrite p .status 0x2]
  | .key x0 mu => some [portWrite p .keyX0 x0.word, portWrite p .keyMu mu.word]
  | .slen l => fieldWrite p .streamLen (decide (l < 2 ^ 32)) l
  | .geom m n => fieldWrite p .geom (decide (m < 2 ^ 16 ∧ n < 2 ^ 16)) (n <<< 16 ||| m)
  | .rounds n => fieldWrite p .rounds (decide (n < 2 ^ 16)) n
  | .wts a b g =>
    fieldWrite p .weights (decide (a < 2 ^ 16 ∧ b < 2 ^ 16 ∧ g < 2 ^ 16)) (g <<< 32 ||| b <<< 16 ||| a)
  | .cur v => fieldWrite p .cursor (decide (v < 2 ^ 64)) v
  | .enc => some [portWrite p .mode 0, portWrite p .cmd (commandWord .apply)]
  | .dec => some [portWrite p .mode 1, portWrite p .cmd (commandWord .apply)]
  | .wrblk a vs => withinCapacity (decide (a + vs.length ≤ p.bufBytes)) (blockWrites p a vs)

/-- A host program: the turns of its lines in order (R70, R147). -/
def assembleProgram (p : Params) : List Line → Option (List Turn)
  | [] => some []
  | x :: xs =>
    match assemble p x, assembleProgram p xs with
    | some ts, some rest => some (ts ++ rest)
    | _, _ => none

end Sys2Proof.Machine
end

