-- ==== Sys2Proof/Machine/Run.lean ====
section
/-! DEFINITION. The end of a run and its final state (70_reset_and_hazards.md R147, R148; 93_implementation_defined.md
U5). The turns of a run are those its first state has scheduled. -/

namespace Sys2Proof.Machine

/-- Is the turn an access of the host? -/
def Turn.isHost : Turn → Bool
  | .host _ => true
  | .unit => false
  | .powerOn => false

/-- Is the next turn an access of the host? -/
def State.hostActs (s : State) : Bool :=
  match s.schedule with
  | [] => false
  | t :: _ => t.isHost

/-- The final state of a run with `n` turns to go, if it has one (R147): the host has made its last access, PENDING is
none, and no step faulted or was refused. `quiet` says whether BUSY was 0 right after the host's last access so far:
a host that stops while BUSY = 1 has no final state, not even after the unit has completed (R147, U5; log 17). -/
def finalAfter : Nat → Bool → State → Option State
  | 0, quiet, s => if s.schedule = [] ∧ s.pending = none ∧ quiet = true then some s else none
  | n + 1, quiet, s =>
    match step s with
    | .next t => finalAfter n (if s.hostActs then t.pending.isNone else quiet) t
    | .fault _ => none
    | .refused _ => none

/-- The final state of the run of the scheduled turns from `s`, none where R147 gives it none. -/
def State.finalState (s : State) : Option State := finalAfter s.schedule.length s.pending.isNone s

end Sys2Proof.Machine
end

