-- ==== Sys2Proof/Safety.lean ====
section
/-! DEFINITION. What counts as a good state and a finished run, and the terms claims use: the invariant every step
keeps, the conditions under which a command executes normally, and spec-side descriptions of results. -/

namespace Sys2Proof.Machine

/-! ### The invariant -/

/-- The codes of R120 but NONE. -/
def errorCodes : List Byte :=
  [0x01, 0x02, 0x03, 0x10, 0x11, 0x12, 0x13, 0x14, 0x15, 0x16, 0x17, 0x20]

/-- ERRCODE is 0x00 while ERR = 0 and a code of R120 while ERR = 1 (R22). -/
abbrev State.ErrorOk (s : State) : Prop :=
  if s.err then s.errCode ∈ errorCodes else s.errCode = 0

/-- Every register holds its RAZ/WI bits as 0 (R33): the bits of R17's table, written out. -/
abbrev State.ReservedZero (s : State) : Prop :=
  s.streamLen.extractLsb' 32 32 = 0#32 ∧ s.geom.extractLsb' 32 32 = 0#32 ∧
  s.rounds.extractLsb' 16 48 = 0#48 ∧ s.weights.extractLsb' 48 16 = 0#16 ∧
  s.mode.extractLsb' 1 63 = 0#63

/-- The pending word is a command that would be accepted now: "a check made here holds at completion" (R123). -/
abbrev State.PendingOk (s : State) : Prop :=
  match s.pending with
  | none => True
  | some w =>
    match decode w with
    | .command i => staysPending i = true ∧ commandCheck i s = none
    | .illegalOpcode => False
    | .reservedBits => False

/-- What every reachable state of a unit with legal parameters meets. -/
structure State.Inv (s : State) : Prop where
  params : s.params.legal = true
  bufWf : s.buf.wf = true
  bufWithin : s.buf.within s.params.bufBytes = true
  streamWf : s.stream.wf = true
  streamWithin : s.stream.within s.params.streamBytes = true
  errorOk : s.ErrorOk
  reservedZero : s.ReservedZero
  pendingOk : s.PendingOk

/-! ### When a command executes normally -/

/-- S_M and S_N are in range (R92 cases 1 and 2). -/
abbrev State.GeomOk (s : State) : Prop :=
  1 ≤ s.sm ∧ s.sm ≤ s.params.smMax ∧ 1 ≤ s.sn ∧ s.sn ≤ s.params.snMax

/-- Every byte of the block is defined (R138). -/
abbrev State.BlockDefined (s : State) : Prop :=
  ∀ a, a < s.sm * s.sn → (s.buf.read a).isSome = true


/-- RC = 3·S_M + 3·S_N − 2 (R98). -/
def State.rc (s : State) : Nat := 3 * s.sm + 3 * s.sn - 2

/-- CC = N_ITER · RC (R98). -/
def State.cc (s : State) : Nat := s.nIter * s.rc

/-- The stream bits an APPLY consumes are defined: the bytes that hold positions C0 to C0 + CC − 1, read modulo L
(R48, R102). -/
abbrev State.ConsumedDefined (s : State) : Prop :=
  ∀ k, k < s.cc → (s.stream.read ((s.cursor.toNat + k) % s.len / 8)).isSome = true

/-- The six checks of APPLY pass (R99, R100). -/
abbrev State.ApplyChecksPass (s : State) : Prop :=
  s.GeomOk ∧ 1 ≤ s.nIter ∧ (1 ≤ s.alpha ∧ 1 ≤ s.beta ∧ 1 ≤ s.gamma) ∧
  (1 ≤ s.len ∧ s.len ≤ s.params.lMax) ∧
  s.cursor.toNat + s.cc ≤ 2 ^ 64 - 1 ∧ (s.decrypt = true → s.cc ≤ s.cursor.toNat)

/-- APPLY executes normally: its checks pass and every byte it reads is defined (R99, R112). -/
abbrev State.ApplyReady (s : State) : Prop :=
  s.ApplyChecksPass ∧ s.BlockDefined ∧ s.ConsumedDefined

/-- GEN's checks pass (R75). -/
abbrev State.GenReady (s : State) : Prop :=
  (1 ≤ s.len ∧ s.len ≤ s.params.lMax) ∧ validKey s.keyX0 s.keyMu = true

/-! ### Results, as the rules describe them -/

/-- Iterate t of GEN (R76, R79): the one byte t comes from. -/
def State.iterate (s : State) : Nat → Word
  | 0 => s.firstIterate
  | t + 1 => logistic s.keyMu (State.iterate s t)

/-- `s'` is `s` after Rotate(line, p, d) (R89) on the line of length n whose cell t is `cell t`: position t holds
what position (t + shift) mod n held, every other byte of BUF is as before, PENDING is none, and nothing else
has changed. -/
def RotatedLine (s s' : State) (n : Nat) (cell : Nat → Nat × Nat) (p : Nat) (d : Bool) : Prop :=
  (∀ t, t < n →
    s'.buf.read ((cell t).1 * s.sn + (cell t).2) =
      s.buf.read ((cell ((t + (if d then n - p % n else p % n)) % n)).1 * s.sn +
        (cell ((t + (if d then n - p % n else p % n)) % n)).2)) ∧
  (∀ a, (∀ t, t < n → a ≠ (cell t).1 * s.sn + (cell t).2) → s'.buf.read a = s.buf.read a) ∧
  s' = { s with buf := s'.buf, pending := none }

/-- Every cell of a line is defined. -/
abbrev LineDefined (s : State) (n : Nat) (cell : Nat → Nat × Nat) : Prop :=
  ∀ t, t < n → (s.buf.read ((cell t).1 * s.sn + (cell t).2)).isSome = true

/-- Cell t of row i (R84). -/
def rowCell (i t : Nat) : Nat × Nat := (i, t)

/-- Cell t of column j (R84). -/
def colCell (j t : Nat) : Nat × Nat := (t, j)

/-- Length of ADIAG(k) (R85): i_hi − i_lo + 1. -/
def antiDiagLen (m n k : Nat) : Nat := min k (m - 1) - (k + 1 - n) + 1

/-- Cell t of ADIAG(k) (R85): row i_hi − t, column k − i_hi + t. -/
def antiDiagCell (m k t : Nat) : Nat × Nat := (min k (m - 1) - t, k - min k (m - 1) + t)

/-- i_lo of DIAG(l) (R86): max(0, l). -/
def diagLow (l : Int) : Nat := l.toNat

/-- Length of DIAG(l) (R86): i_hi − i_lo + 1. -/
def diagLen (m n : Nat) (l : Int) : Nat := (min ((m : Int) - 1) ((n : Int) - 1 + l) - max 0 l + 1).toNat

/-- Cell t of DIAG(l) (R86): row i_lo + t, column i_lo + t − l. -/
def diagCell (l : Int) (t : Nat) : Nat × Nat := (diagLow l + t, ((diagLow l : Int) - l).toNat + t)

/-- The rotation command with the other direction bit (R91); other commands are left alone. -/
def flipDirection : Instr → Instr
  | .rotr row p d => .rotr row p (!d)
  | .rotc col p d => .rotc col p (!d)
  | .rota k p d => .rota k p (!d)
  | .rotd l p d => .rotd l p (!d)
  | .nop => .nop
  | .srst => .srst
  | .gen => .gen
  | .apply => .apply

/-- Is it a rotation command? -/
def isRotation : Instr → Bool
  | .rotr _ _ _ => true
  | .rotc _ _ _ => true
  | .rota _ _ _ => true
  | .rotd _ _ _ => true
  | .nop => false
  | .srst => false
  | .gen => false
  | .apply => false

/-- The selector of a rotation is in its family's range (R92 case 3). -/
def SelectorOk (i : Instr) (s : State) : Prop :=
  match i with
  | .rotr row _ _ => row < s.sm
  | .rotc col _ _ => col < s.sn
  | .rota k _ _ => k + 2 ≤ s.sm + s.sn
  | .rotd l _ _ => 1 - (s.sn : Int) ≤ l ∧ l ≤ (s.sm : Int) - 1
  | .nop => False
  | .srst => False
  | .gen => False
  | .apply => False

/-- A command of R92, R75 or R99 whose check failed with `code`: ERR and ERRCODE (the first error wins, R122),
PENDING none, nothing else. -/
def Raised (s : State) (code : Byte) : State :=
  { s with err := true, errCode := if s.err then s.errCode else code, pending := none }

/-- The checks a command makes at acceptance all pass (R123 case 6): those of R75, R92 and R99; NOP and SRST have
none. -/
def CommandOk (i : Instr) (s : State) : Prop :=
  match i with
  | .nop => True
  | .srst => True
  | .gen => s.GenReady
  | .rotr row p d => s.GeomOk ∧ SelectorOk (.rotr row p d) s
  | .rotc col p d => s.GeomOk ∧ SelectorOk (.rotc col p d) s
  | .rota k p d => s.GeomOk ∧ SelectorOk (.rota k p d) s
  | .rotd l p d => s.GeomOk ∧ SelectorOk (.rotd l p d) s
  | .apply => s.ApplyChecksPass

/-- Command i fails its checks with `code`. At the CMD write of an idle unit with ERR = 0, the error is raised, PENDING
stays none and nothing else changes (R121, R123 case 6). And exec, which repeats the checks in every state (the model's
choice, log 8), leaves the same error. -/
def CheckFails (i : Instr) (s : State) (code : Byte) : Prop :=
  (∀ w, decode w = .command i → s.err = false → s.pending = none →
    submit w s = .next { s with err := true, errCode := code }) ∧
  exec i s = .next (Raised s code)

/-- Every byte of a rotation's line is defined. -/
def LineReadable (i : Instr) (s : State) : Prop :=
  match i with
  | .rotr row _ _ => LineDefined s s.sn (rowCell row)
  | .rotc col _ _ => LineDefined s s.sm (colCell col)
  | .rota k _ _ => LineDefined s (antiDiagLen s.sm s.sn k) (antiDiagCell s.sm k)
  | .rotd l _ _ => LineDefined s (diagLen s.sm s.sn l) (diagCell l)
  | .nop => True
  | .srst => True
  | .gen => True
  | .apply => True

/-- What R41 and the last column of R17 say of a state after reset: ID and CAP are constant, every other register
reads 0, PENDING is none, ERR = 0, ERRCODE = 0x00, every byte of BUF and STREAM is undefined. -/
def ResetValues (s : State) : Prop :=
  s.readReg .id = 0x4843494500000001 ∧
  s.readReg .cap = BitVec.ofNat 32 s.params.lMax ++ BitVec.ofNat 16 s.params.snMax ++ BitVec.ofNat 16 s.params.smMax ∧
  (∀ r : Reg, r ≠ .id → r ≠ .cap → s.readReg r = 0) ∧
  s.pending = none ∧ s.err = false ∧ s.errCode = 0x00 ∧
  ∀ a, s.buf.read a = none ∧ s.stream.read a = none

/-- Two rotation commands on different lines of one family (R88). -/
def differentLines : Instr → Instr → Bool
  | .rotr i _ _, .rotr j _ _ => decide (i ≠ j)
  | .rotc i _ _, .rotc j _ _ => decide (i ≠ j)
  | .rota i _ _, .rota j _ _ => decide (i ≠ j)
  | .rotd i _ _, .rotd j _ _ => decide (i ≠ j)
  | _, _ => false

/-- Run commands one after another. -/
def execAll : List Instr → State → Host.Outcome State Fault Refusal
  | [], s => .next s
  | i :: is, s =>
    match exec i s with
    | .next t => execAll is t
    | .fault f => .fault f
    | .refused r => .refused r

/-- bit(n) of a state whose stream is defined (R48). -/
def State.bitAt (s : State) (n : Nat) : Bool := (streamBit s.stream s.len n).getD false

/-- q(r) (R101). -/
def State.q (s : State) (r : Nat) : Nat := s.cursor.toNat + r * s.rc

/-- p(r) (R101). -/
def State.p (s : State) (r : Nat) : Nat :=
  s.alpha + s.beta * (s.bitAt (s.q r)).toNat + s.gamma * (s.bitAt (s.q r + 1)).toNat

/-- The rotations of Encrypt round r as commands (R101, R103). -/
def State.encryptRound (s : State) (r : Nat) : List Instr :=
  (List.range s.sm).map (fun i => Instr.rotr i (s.p r) (s.bitAt (s.q r + i))) ++
  (List.range s.sn).map (fun j => Instr.rotc j (s.p r) (s.bitAt (s.q r + s.sm + j))) ++
  (List.range (s.sm + s.sn - 1)).map (fun k => Instr.rota k (s.p r) (s.bitAt (s.q r + s.sm + s.sn + k))) ++
  (List.range (s.sm + s.sn - 1)).map (fun t =>
    Instr.rotd ((t : Int) + 1 - s.sn) (s.p r)
      (s.bitAt ((s.q r : Int) + 2 * s.sm + 3 * s.sn + ((t : Int) + 1 - s.sn) - 2).toNat))

/-- The rotations of Decrypt round r as commands (R101, R107). -/
def State.decryptRound (s : State) (r : Nat) : List Instr :=
  (List.range (s.sm + s.sn - 1)).map (fun t =>
    Instr.rotd ((t : Int) + 1 - s.sn) (s.p r)
      (!(s.bitAt ((s.q r : Int) + 2 * s.sm + 3 * s.sn + ((t : Int) + 1 - s.sn) - 2).toNat))) ++
  (List.range (s.sm + s.sn - 1)).map (fun k => Instr.rota k (s.p r) (!(s.bitAt (s.q r + s.sm + s.sn + k)))) ++
  (List.range s.sn).map (fun j => Instr.rotc j (s.p r) (!(s.bitAt (s.q r + s.sm + j)))) ++
  (List.range s.sm).map (fun i => Instr.rotr i (s.p r) (!(s.bitAt (s.q r + i))))

/-- The rotation commands an APPLY amounts to (R105, R109, R141). -/
def State.applyCommands (s : State) : List Instr :=
  if s.decrypt then (List.range s.nIter).reverse.flatMap s.decryptRound
  else (List.range s.nIter).flatMap s.encryptRound

end Sys2Proof.Machine
end

