-- ==== Sys2Proof/Certificates/Slice0/Obligations.lean ====
section
/-! DEFINITION. The statements about the model, from the rules of spec/. -/

open Sys2Proof Sys2Proof.Machine

/-! ### The command word -/

/-- O1. Decoding an encoded well-formed command gives it back, every operand at every value its field admits
(R62, R63, R64). -/
def Obligations.DecodeEncodeIsIdentity : Prop :=
  ∀ i : Instr, i.wellFormed = true → decode (encode i) = .command i

/-- O2. A word that decodes to a command other than SRST is that command's encoding, and the command is well formed
(R62, R63); SRST alone has many words (R68). -/
def Obligations.DecodedWordIsItsEncoding : Prop :=
  ∀ (w : Word) (i : Instr), decode w = .command i → i ≠ .srst → encode i = w ∧ i.wellFormed = true

/-- O3. Every word is a command, an ILLEGAL_OPCODE word or a RESERVED_BITS word, and which one is read off OP and the
reserved bits of OP's format (R65, R66, R67). -/
def Obligations.EveryWordIsCommandIllegalOrReserved : Prop :=
  ∀ w : Word,
    (decode w = .illegalOpcode ↔
      w.extractLsb' 0 8 ∉ ([0x00, 0x01, 0x10, 0x20, 0x21, 0x22, 0x23, 0x30] : List Byte)) ∧
    (decode w = .reservedBits ↔
      (w.extractLsb' 0 8 ∈ ([0x00, 0x10, 0x30] : List Byte) ∧ w.extractLsb' 8 56 ≠ 0#56) ∨
      (w.extractLsb' 0 8 ∈ ([0x20, 0x21, 0x22, 0x23] : List Byte) ∧ w.extractLsb' 9 7 ≠ 0#7)) ∧
    ((∃ i, decode w = .command i) ↔ decode w ≠ .illegalOpcode ∧ decode w ≠ .reservedBits)

/-- O4. Words written out from the spec's encodings and vectors decode to the commands they stand for. -/
def Obligations.SampleWordsDecode : Prop :=
  decode 0x0000000000000000 = .command .nop ∧
  decode 0xFFFFFFFFFFFFFF01 = .command .srst ∧
  decode 0x0000000000000010 = .command .gen ∧
  decode 0x0000000600010120 = .command (.rotr 1 6 true) ∧
  decode 0x0000000100030121 = .command (.rotc 3 1 true) ∧
  decode 0x0000000700050022 = .command (.rota 5 7 false) ∧
  decode 0x00000001FFFF0023 = .command (.rotd (-1) 1 false) ∧
  decode 0x0000000000000030 = .command .apply ∧
  decode 0x0000000000000100 = .reservedBits ∧
  decode 0x0000000100000220 = .reservedBits ∧
  decode 0x00000000000000FF = .illegalOpcode

/-- O5. The word the assembler's formula gives, (p << 32) | (sel << 16) | (d << 8) | OP (R70), is the word of the
field layout (R62). -/
def Obligations.AssemblerWordsAreEncodings : Prop :=
  ∀ i : Instr, i.wellFormed = true → commandWord i = encode i

/-! ### Acceptance of a CMD write -/

/-- O6. A CMD write of a word that is not SRST has exactly one of three effects (R121, R123): none at all; one error,
raised only while ERR = 0, and nothing else; or PENDING set to the word, only while ERR = 0 and BUSY = 0 and only for
a decoded command other than NOP. -/
def Obligations.AcceptanceHasOneEffect : Prop :=
  ∀ (w : Word) (s : State), w.extractLsb' 0 8 ≠ 0x01 →
    submit w s = .next s ∨
    (s.err = false ∧ ∃ c ∈ errorCodes, submit w s = .next { s with err := true, errCode := c }) ∨
    (s.err = false ∧ s.pending = none ∧ ∃ i, decode w = .command i ∧ i ≠ .nop ∧ i ≠ .srst ∧
      submit w s = .next { s with pending := some w })

/-- O7. Acceptance of a CMD write other than SRST, case by case (R123 cases 2 to 7, R65, R66): ERR = 1 refuses with no
effect; then BUSY = 1 raises BUSY_ACCESS; then an unassigned OP raises ILLEGAL_OPCODE; then a reserved bit raises
RESERVED_BITS; then a command whose checks fail raises an error and PENDING stays none (O39, O47 and O51 say which
error); then NOP changes nothing; and GEN, ROTR, ROTC, ROTA, ROTD or APPLY whose checks pass sets PENDING to the word
and changes nothing else. -/
def Obligations.AcceptanceOrder : Prop :=
  ∀ (w : Word) (s : State), w.extractLsb' 0 8 ≠ 0x01 →
    (s.err = true → submit w s = .next s) ∧
    (s.err = false → s.pending ≠ none →
      submit w s = .next { s with err := true, errCode := 0x03 }) ∧
    (s.err = false → s.pending = none → decode w = .illegalOpcode →
      submit w s = .next { s with err := true, errCode := 0x01 }) ∧
    (s.err = false → s.pending = none → decode w = .reservedBits →
      submit w s = .next { s with err := true, errCode := 0x02 }) ∧
    (∀ i, s.err = false → s.pending = none → decode w = .command i →
      (¬CommandOk i s → ∃ c ∈ errorCodes, submit w s = .next { s with err := true, errCode := c }) ∧
      (i = .nop → submit w s = .next s) ∧
      (CommandOk i s → i ≠ .nop → submit w s = .next { s with pending := some w }))

/-- O8. A word whose OP is 0x01 is SRST whatever its other bits, and it is taken in every state (R68). -/
def Obligations.SrstIsAlwaysTaken : Prop :=
  (∀ (w : Word) (s : State), w.extractLsb' 0 8 = 0x01 →
    decode w = .command .srst ∧ submit w s = exec .srst s ∧ ∃ t, exec .srst s = .next t) ∧
  commandWord .srst = 0x0000000000000001

/-- O9. SRST completes in every state, abandons a pending command and leaves the power-on state (R113, R41); the
parameters and the model's own host-side fields stay (the model's choice, log 14). -/
def Obligations.SrstGivesPowerOnState : Prop :=
  ∀ s : State, exec .srst s =
    .next { State.resetOf s.params with schedule := s.schedule, response := s.response, draws := s.draws }

/-- O10. NOP completes in every state and changes nothing; submitted to an idle unit with ERR = 0 it is accepted and
leaves the unit idle and unchanged (R114). In a state where something is pending, which no run gives NOP, PENDING
becomes none (the model's choice, log 9). -/
def Obligations.NopChangesNothing : Prop :=
  ∀ s : State, exec .nop s = .next { s with pending := none } ∧
    (s.pending = none → exec .nop s = .next s) ∧
    (s.err = false → s.pending = none → submit 0x0000000000000000 s = .next s)

/-! ### The step -/

/-- O11. A step runs the decoded pending command: on the unit's turn step is exec of the command the pending word
decodes to (R53). That the unit also acts when nothing is scheduled, and that a scheduled turn is used up, is the model's
choice (log 4, DESIGN CHOICE). -/
def Obligations.StepRunsThePendingCommand : Prop :=
  ∀ (s : State) (w : Word) (i : Instr), s.pending = some w → decode w = .command i →
    (s.schedule = [] → step s = exec i s) ∧
    (∀ rest, s.schedule = .unit :: rest → step s = exec i { s with schedule := rest })

/-- O12. The word placed by withFetchWord is run by the very next step (log 5). -/
def Obligations.PlacedWordIsRunNext : Prop :=
  ∀ (s : State) (nbits w : Nat) (i : Instr), decodeTableWord nbits w = some i →
    step (s.withFetchWord nbits w) = exec i { s with pending := some (BitVec.ofNat 64 (w % 2 ^ nbits)) }

/-- O13. What a step does when no command is run: a host turn is that access, a power-on turn is the reset of R41, and
a unit with nothing pending waits (R13, R137). The turns themselves are the model's choice (log 4), power-on as a turn
is log 12, and that power-on keeps the parameters and the model's own fields is log 14. -/
def Obligations.StepTakesTheFirstTurn : Prop :=
  ∀ (s : State) (rest : List Turn),
    (∀ x, s.schedule = .host x :: rest → step s = hostAccess x { s with schedule := rest }) ∧
    (s.schedule = .powerOn :: rest →
      step s = .next { State.resetOf s.params with
        schedule := rest, response := s.response, draws := s.draws }) ∧
    (s.schedule = .unit :: rest → s.pending = none → step s = .next { s with schedule := rest }) ∧
    (s.schedule = [] → s.pending = none → step s = .next s)

/-- O14. Acceptance followed by the unit's step is exec (R53, R123): the host writes a command to CMD of an idle unit
with ERR = 0. If a check of the command fails, or it is NOP or SRST, the write leaves at once what exec leaves, and
nothing pending. If it is any other command and its checks pass, the write leaves it pending and nothing else changed,
and the unit's step then does what exec does from the state before. That a host's access is a turn that is used up, and
that exec repeats the checks, is the model's choice (log 4, log 8). -/
def Obligations.AcceptThenCompleteIsExec : Prop :=
  ∀ (s : State) (x : Access) (rest : List Turn) (w : Word) (i : Instr),
    s.schedule = .host x :: rest → resolve s.params x.addr x.width = some (.reg .cmd) → x.op = .write w →
    s.err = false → s.pending = none → decode w = .command i →
    (¬CommandOk i s ∨ i = .nop ∨ i = .srst →
      ∃ s1, step s = .next s1 ∧ s1.pending = none ∧ exec i { s with schedule := rest } = .next s1) ∧
    (CommandOk i s → i ≠ .nop → i ≠ .srst →
      step s = .next { s with schedule := rest, pending := some w } ∧
      unitTurn { s with schedule := rest, pending := some w } = exec i { s with schedule := rest })

/-- O15. Every accepted command completes after finitely many turns (R146 asks for weak fairness; that the unit acts
once the schedule is empty is the model's choice, log 4): from any state, once the scheduled turns are over, one more
step leaves nothing scheduled and nothing pending, unless a step stopped. It says nothing about a final state (O59). -/
def Obligations.PendingCompletesWhenTheScheduleEnds : Prop :=
  ∀ s t : State, Host.Core.run Sys2Proof.core (s.schedule.length + 1) s = .next t →
    t.schedule = [] ∧ t.pending = none

/-! ### The host port -/

/-- O16. The address map: an access reaches a register exactly by a 64-bit access at UNIT_BASE plus the offset R17 gives
that register, a BUF byte exactly by an 8-bit access at UNIT_BASE + 0x0100000 + a with a < BUF_BYTES, a STREAM byte
exactly by an 8-bit access at UNIT_BASE + 0x1000000 + t with t < STREAM_BYTES (R17, R42, R43, R44). -/
def Obligations.AddressMapIsTheThreeWindows : Prop :=
  ∀ (p : Params) (a : Nat) (width : Width), p.legal = true →
    (resolve p a width = some (.reg .id) ↔ width = .b64 ∧ a = p.unitBase + 0x000) ∧
    (resolve p a width = some (.reg .cap) ↔ width = .b64 ∧ a = p.unitBase + 0x008) ∧
    (resolve p a width = some (.reg .status) ↔ width = .b64 ∧ a = p.unitBase + 0x010) ∧
    (resolve p a width = some (.reg .cmd) ↔ width = .b64 ∧ a = p.unitBase + 0x018) ∧
    (resolve p a width = some (.reg .keyX0) ↔ width = .b64 ∧ a = p.unitBase + 0x020) ∧
    (resolve p a width = some (.reg .keyMu) ↔ width = .b64 ∧ a = p.unitBase + 0x028) ∧
    (resolve p a width = some (.reg .streamLen) ↔ width = .b64 ∧ a = p.unitBase + 0x030) ∧
    (resolve p a width = some (.reg .geom) ↔ width = .b64 ∧ a = p.unitBase + 0x038) ∧
    (resolve p a width = some (.reg .rounds) ↔ width = .b64 ∧ a = p.unitBase + 0x040) ∧
    (resolve p a width = some (.reg .weights) ↔ width = .b64 ∧ a = p.unitBase + 0x048) ∧
    (resolve p a width = some (.reg .mode) ↔ width = .b64 ∧ a = p.unitBase + 0x050) ∧
    (resolve p a width = some (.reg .cursor) ↔ width = .b64 ∧ a = p.unitBase + 0x058) ∧
    (∀ k, resolve p a width = some (.buf k) ↔
      width = .b8 ∧ k < p.smMax * p.snMax ∧ a = p.unitBase + 0x100000 + k) ∧
    (∀ k, resolve p a width = some (.stream k) ↔
      width = .b8 ∧ k < p.lMax / 8 ∧ a = p.unitBase + 0x1000000 + k)

/-- O17. A host access is refused exactly when it is malformed: none of the three forms of O16 (R45, the clause about a
Lean model). -/
def Obligations.MalformedAccessesAreRefused : Prop :=
  ∀ (s : State) (x : Access), s.params.legal = true →
    ((∃ r, hostAccess x s = .refused r) ↔
      ¬((x.width = .b64 ∧ ∃ o ∈ [0x000, 0x008, 0x010, 0x018, 0x020, 0x028, 0x030, 0x038, 0x040, 0x048, 0x050, 0x058],
            x.addr = s.params.unitBase + o) ∨
        (x.width = .b8 ∧ ∃ k, k < s.params.smMax * s.params.snMax ∧ x.addr = s.params.unitBase + 0x100000 + k) ∨
        (x.width = .b8 ∧ ∃ k, k < s.params.lMax / 8 ∧ x.addr = s.params.unitBase + 0x1000000 + k)))

/-- O18. A host write to a register of an idle unit stores the value with the RAZ/WI bits forced to 0 and changes nothing
else; ID and CAP ignore it (R115 cases 4 and 5, R33, R17). -/
def Obligations.RegisterWriteStoresUnreservedBits : Prop :=
  ∀ (s : State) (x : Access) (v : Word), x.op = .write v → s.pending = none →
    (resolve s.params x.addr x.width = some (.reg .keyX0) → hostAccess x s = .next { s with keyX0 := v }) ∧
    (resolve s.params x.addr x.width = some (.reg .keyMu) → hostAccess x s = .next { s with keyMu := v }) ∧
    (resolve s.params x.addr x.width = some (.reg .streamLen) →
      hostAccess x s = .next { s with streamLen := v &&& 0x00000000FFFFFFFF }) ∧
    (resolve s.params x.addr x.width = some (.reg .geom) →
      hostAccess x s = .next { s with geom := v &&& 0x00000000FFFFFFFF }) ∧
    (resolve s.params x.addr x.width = some (.reg .rounds) →
      hostAccess x s = .next { s with rounds := v &&& 0x000000000000FFFF }) ∧
    (resolve s.params x.addr x.width = some (.reg .weights) →
      hostAccess x s = .next { s with weights := v &&& 0x0000FFFFFFFFFFFF }) ∧
    (resolve s.params x.addr x.width = some (.reg .mode) →
      hostAccess x s = .next { s with mode := v &&& 0x0000000000000001 }) ∧
    (resolve s.params x.addr x.width = some (.reg .cursor) → hostAccess x s = .next { s with cursor := v }) ∧
    (resolve s.params x.addr x.width = some (.reg .id) → hostAccess x s = .next s) ∧
    (resolve s.params x.addr x.width = some (.reg .cap) → hostAccess x s = .next s)

/-- O19. A host write to STATUS is performed in every state: bit 1 = 1 sets ERR <- 0 and ERRCODE <- 0x00, every other
bit is ignored, and nothing else changes, BUSY and the pending command among it (R23). -/
def Obligations.StatusWriteClearsOnlyTheError : Prop :=
  ∀ (s : State) (x : Access) (v : Word), x.op = .write v →
    resolve s.params x.addr x.width = some (.reg .status) →
    hostAccess x s = .next (if v.getLsbD 1 then { s with err := false, errCode := 0 } else s)

/-- O20. What a register read returns (R17 to R22, R24, R33, R118): ID, the fields of CAP, BUSY as PENDING ≠ none, ERR,
ERRCODE, zeros in STATUS's reserved bits, 0 for CMD, the unreserved bits of the others. -/
def Obligations.RegistersReadAsTheMapSays : Prop :=
  ∀ s : State,
    s.readReg .id = 0x4843494500000001 ∧
    (s.readReg .cap).extractLsb' 0 16 = BitVec.ofNat 16 s.params.smMax ∧
    (s.readReg .cap).extractLsb' 16 16 = BitVec.ofNat 16 s.params.snMax ∧
    (s.readReg .cap).extractLsb' 32 32 = BitVec.ofNat 32 s.params.lMax ∧
    (s.readReg .status).getLsbD 0 = s.pending.isSome ∧
    (s.readReg .status).getLsbD 1 = s.err ∧
    (s.readReg .status).extractLsb' 2 6 = 0#6 ∧
    (s.readReg .status).extractLsb' 8 8 = s.errCode ∧
    (s.readReg .status).extractLsb' 16 48 = 0#48 ∧
    s.readReg .cmd = 0 ∧
    s.readReg .keyX0 = s.keyX0 ∧ s.readReg .keyMu = s.keyMu ∧ s.readReg .cursor = s.cursor ∧
    s.readReg .streamLen = s.streamLen &&& 0x00000000FFFFFFFF ∧
    s.readReg .geom = s.geom &&& 0x00000000FFFFFFFF ∧
    s.readReg .rounds = s.rounds &&& 0x000000000000FFFF ∧
    s.readReg .weights = s.weights &&& 0x0000FFFFFFFFFFFF ∧
    s.readReg .mode = s.mode &&& 0x0000000000000001

/-- O21. A host write to BUF or STREAM byte a of an idle unit makes that byte v[7:0], which defines it, and changes
nothing else; every other byte of either memory reads as before (R116, R117, R44). -/
def Obligations.ByteWriteDefinesOneByte : Prop :=
  ∀ (s : State) (x : Access) (v : Word) (a : Nat), x.op = .write v → s.pending = none →
    (resolve s.params x.addr x.width = some (.buf a) →
      ∃ t, hostAccess x s = .next t ∧ t = { s with buf := t.buf } ∧
        ∀ b, t.buf.read b = if b = a then some (v.extractLsb' 0 8) else s.buf.read b) ∧
    (resolve s.params x.addr x.width = some (.stream a) →
      ∃ t, hostAccess x s = .next t ∧ t = { s with stream := t.stream } ∧
        ∀ b, t.stream.read b = if b = a then some (v.extractLsb' 0 8) else s.stream.read b)

/-- O22. While BUSY = 1 every well-formed host write is dropped, and raises BUSY_ACCESS if ERR = 0, except a STATUS write
and an SRST word, which are performed (R54, R115 case 3). The pending command stays as it is. That this holds of ID and
CAP too is read from R54 and R115 against R18 and R19 (log 16, DEDUCED). -/
def Obligations.BusyWritesAreDropped : Prop :=
  ∀ (s : State) (x : Access) (v : Word) (tgt : Target),
    s.pending ≠ none → x.op = .write v → resolve s.params x.addr x.width = some tgt →
    (tgt = .reg .status →
      hostAccess x s = .next (if v.getLsbD 1 then { s with err := false, errCode := 0 } else s)) ∧
    (tgt = .reg .cmd → v.extractLsb' 0 8 = 0x01 → hostAccess x s = exec .srst s) ∧
    (tgt ≠ .reg .status → ¬(tgt = .reg .cmd ∧ v.extractLsb' 0 8 = 0x01) →
      hostAccess x s = .next (if s.err then s else { s with err := true, errCode := 0x03 }))

/-- O23. Host reads (R55, R116, R117, R118): a register read returns the current value in every state; a byte read of an
idle unit returns the byte, or faults UNDEFINED_READ where the byte is undefined (R40, taken of every host read: log 2,
DEDUCED); a byte read while BUSY = 1 returns some byte (R55 leaves it unspecified; the draw is log 3, DESIGN CHOICE). No
read changes anything of the unit: only the model's record of the answer (log 6) and its count of draws (log 3). -/
def Obligations.ReadsAnswerAndChangeNothingElse : Prop :=
  ∀ (s : State) (x : Access), x.op = .read →
    (∀ r, resolve s.params x.addr x.width = some (.reg r) →
      hostAccess x s = .next { s with response := .word (s.readReg r) }) ∧
    (∀ (a : Nat) (m : Memory),
      ((resolve s.params x.addr x.width = some (.buf a) ∧ m = s.buf) ∨
       (resolve s.params x.addr x.width = some (.stream a) ∧ m = s.stream)) →
      (s.pending = none → ∀ b, m.read a = some b → hostAccess x s = .next { s with response := .byte b }) ∧
      (s.pending = none → m.read a = none → hostAccess x s = .fault .undefinedRead) ∧
      (s.pending ≠ none → ∃ b, hostAccess x s = .next { s with response := .byte b, draws := s.draws + 1 }))

/-! ### Reset -/

/-- O24. What reset leaves, for every choice of the parameters, after power-on and after SRST alike (R41): the reset
values of R17's last column, ID and CAP constant, PENDING none, every byte of BUF and STREAM undefined; and these values
make a GEN and an APPLY written to CMD raise a configuration error (STREAM_RANGE, ZERO_BLOCK). -/
def Obligations.ResetLeavesTheValuesOfTheMap : Prop :=
  (∀ p : Params, ResetValues (State.resetOf p) ∧
    submit 0x0000000000000010 (State.resetOf p) = .next { State.resetOf p with err := true, errCode := 0x15 } ∧
    submit 0x0000000000000030 (State.resetOf p) = .next { State.resetOf p with err := true, errCode := 0x10 }) ∧
  (∀ s : State, ∃ t, submit 0x0000000000000001 s = .next t ∧ ResetValues t ∧ t.readReg .id = s.readReg .id ∧
    t.readReg .cap = s.readReg .cap ∧
    submit 0x0000000000000010 t = .next { t with err := true, errCode := 0x15 } ∧
    submit 0x0000000000000030 t = .next { t with err := true, errCode := 0x10 })

/-! ### Errors -/

/-- O25. The codes of the errors, and what raising one does (R120, R121, R122): ERR <- 1, ERRCODE <- code if ERR was 0,
the first code kept otherwise, no other change. -/
def Obligations.FirstErrorWins : Prop :=
  (∀ (s : State) (c : ErrorCode),
    (s.err = false → s.raise c = { s with err := true, errCode := c.bits }) ∧
    (s.err = true → s.raise c = s)) ∧
  [ErrorCode.illegalOpcode, .reservedBits, .busyAccess, .zeroBlock, .geomRange, .zeroRounds, .badWeight,
    .cursorRange, .streamRange, .degenerateKey, .badSelector, .numericRange].map ErrorCode.bits =
    [0x01, 0x02, 0x03, 0x10, 0x11, 0x12, 0x13, 0x14, 0x15, 0x16, 0x17, 0x20]

/-- O26. Only three things clear ERR: a STATUS write with bit 1 = 1, SRST, and power-on reset (R21); and while ERR stays
1, ERRCODE does not change (R22, R122). -/
def Obligations.OnlyThreeThingsClearTheError : Prop :=
  ∀ s t : State, s.Inv → step s = .next t → s.err = true →
    (t.err = true → t.errCode = s.errCode) ∧
    (t.err = false →
      (∃ rest, s.schedule = .powerOn :: rest) ∨
      (∃ x v rest, s.schedule = .host x :: rest ∧ x.op = .write v ∧
        ((resolve s.params x.addr x.width = some (.reg .status) ∧ v.getLsbD 1 = true) ∨
         (resolve s.params x.addr x.width = some (.reg .cmd) ∧ v.extractLsb' 0 8 = 0x01))))

/-! ### The whole machine -/

/-- O27. Only these move CURSOR: a host write to it while the unit is idle, an APPLY that completes, SRST, and power-on
reset (R32). -/
def Obligations.OnlyHostApplyAndResetMoveTheCursor : Prop :=
  ∀ s t : State, s.Inv → step s = .next t → t.cursor ≠ s.cursor →
    (∃ rest, s.schedule = .powerOn :: rest) ∨
    (∃ x v rest, s.schedule = .host x :: rest ∧ x.op = .write v ∧
      ((resolve s.params x.addr x.width = some (.reg .cmd) ∧ v.extractLsb' 0 8 = 0x01) ∨
       (resolve s.params x.addr x.width = some (.reg .cursor) ∧ s.pending = none ∧ t.cursor = v))) ∨
    ((s.schedule = [] ∨ ∃ rest, s.schedule = .unit :: rest) ∧
      ∃ w, s.pending = some w ∧ decode w = .command .apply ∧ t.pending = none ∧
        t.err = s.err ∧ t.errCode = s.errCode)

/-- O28. While a command is pending, a host access other than SRST changes nothing the command reads or writes: of the
unit's state at most ERR and ERRCODE (R53, R54, R123). -/
def Obligations.OperandsAreFrozenWhileBusy : Prop :=
  ∀ (s t : State) (x : Access), s.pending ≠ none → hostAccess x s = .next t →
    (∃ v, x.op = .write v ∧ resolve s.params x.addr x.width = some (.reg .cmd) ∧ v.extractLsb' 0 8 = 0x01) ∨
    t = { s with err := t.err, errCode := t.errCode, response := t.response, draws := t.draws }

/-- O29. The invariant holds after reset, whatever the legal parameters. -/
def Obligations.InvariantHoldsAtReset : Prop :=
  (∀ p : Params, p.legal = true → (State.resetOf p).Inv) ∧ State.reset.Inv

/-- O30. Every step keeps the invariant: both memories stay canonical and within their capacities (R38, R39), ERRCODE
stays 0x00 while ERR = 0 and a code of R120 while ERR = 1 (R22), RAZ/WI bits stay 0 (R33), and the pending word stays
a command whose checks pass (R123: "a check made here holds at completion"). -/
def Obligations.StepKeepsTheInvariant : Prop :=
  ∀ s t : State, s.Inv → step s = .next t → t.Inv

/-- O31. A unit all of whose memory bytes are defined never faults: UNDEFINED_READ is the only fault, and it needs an
undefined byte within the capacities (R40, R129). -/
def Obligations.FullyDefinedUnitNeverFaults : Prop :=
  ∀ s : State, s.Inv →
    (∀ a, a < s.params.bufBytes → (s.buf.read a).isSome = true) →
    (∀ a, a < s.params.streamBytes → (s.stream.read a).isSome = true) →
    ∀ f, step s ≠ .fault f

/-- O32. A step refuses only a malformed host access (R45, R129): no command is ever refused. -/
def Obligations.StepRefusesOnlyMalformedAccesses : Prop :=
  ∀ (s : State) (r : Refusal), step s = .refused r →
    r = .malformedAccess ∧ ∃ x rest, s.schedule = .host x :: rest ∧ resolve s.params x.addr x.width = none

/-- O33. No step changes the parameters (R6), and each step uses up one turn of the schedule (the model's own field,
log 4). -/
def Obligations.ParametersNeverChange : Prop :=
  ∀ s t : State, step s = .next t → t.params = s.params ∧ t.schedule = s.schedule.tail

/-! ### GEN -/

/-- O34. fl_mul is the binary64 product rounded to nearest with ties to even (R12): for finite operands and a finite
result no finite binary64 value is nearer to the exact product of the magnitudes, one equally near leaves the result's
last bit 0, and the sign is the product's. -/
def Obligations.FlMulRoundsToNearestEven : Prop :=
  ∀ a b c : Word, fBits a < infBits → fBits b < infBits → fBits c < infBits → fBits (flMul a b) < infBits →
    fSign (flMul a b) = (fSign a ^^ fSign b) ∧
    |(fMag (flMul a b) : Int) * 2 ^ minExp - fMag a * fMag b| ≤ |(fMag c : Int) * 2 ^ minExp - fMag a * fMag b| ∧
    (|(fMag (flMul a b) : Int) * 2 ^ minExp - fMag a * fMag b| = |(fMag c : Int) * 2 ^ minExp - fMag a * fMag b| →
      fMag c ≠ fMag (flMul a b) → fBits (flMul a b) % 2 = 0)

/-- O35. fl_sub is the binary64 difference rounded to nearest with ties to even (R12); the difference of equal values is
+0 unless it is (−0) − (+0). -/
def Obligations.FlSubRoundsToNearestEven : Prop :=
  ∀ a b c : Word, fBits a < infBits → fBits b < infBits → fBits c < infBits → fBits (flSub a b) < infBits →
    |fVal (flSub a b) - (fVal a - fVal b)| ≤ |fVal c - (fVal a - fVal b)| ∧
    (|fVal (flSub a b) - (fVal a - fVal b)| = |fVal c - (fVal a - fVal b)| →
      fVal c ≠ fVal (flSub a b) → fBits (flSub a b) % 2 = 0) ∧
    (fVal a = fVal b → flSub a b = if fSign a && !fSign b then 0x8000000000000000 else 0)

/-- O36. "byte(x) = floor(f · 256)" where f is the fractional part (R77): eight doublings emit exactly that byte, and
1.0 gives 0x00 (R78). -/
def Obligations.ByteIsFloorOfScaledFraction : Prop :=
  (∀ x : Word, (byteOf x).toNat = fMag x % 2 ^ minExp * 256 / 2 ^ minExp) ∧ byteOf oneWord = 0x00

/-- O37. With a valid key every iterate stays in [0, 1], so a GEN whose checks pass completes without raising
NUMERIC_RANGE, or any other error: ERR and ERRCODE stay as they were. The spec leaves this open (N9 of
91_not_in_source.md, R80); it is a theorem about binary64 as R12 and R73 define the step. -/
def Obligations.ValidKeyIteratesStayInUnit : Prop :=
  (∀ (s : State) (t : Nat), validKey s.keyX0 s.keyMu = true → outsideUnit (s.iterate t) = false) ∧
  (∀ s : State, s.GenReady → ∃ t, exec .gen s = .next t ∧ t.err = s.err ∧ t.errCode = s.errCode)

/-- O38. GEN completes whenever its checks pass (R76, R79, R80, R81): byte k holds byte(x) of iterate k as long as no
iterate up to k has left [0, 1]; every other STREAM byte is as before; NUMERIC_RANGE is raised exactly if an iterate of
the first ceil(L/8) leaves [0, 1]; PENDING is none and nothing else changes. -/
def Obligations.GenWritesTheIterates : Prop :=
  ∀ s : State, s.GenReady → ∃ t, exec .gen s = .next t ∧
    t = { s with stream := t.stream, err := t.err, errCode := t.errCode, pending := none } ∧
    (∀ k, k < (s.len + 7) / 8 → (∀ j, j ≤ k → outsideUnit (s.iterate j) = false) →
      t.stream.read k = some (byteOf (s.iterate k))) ∧
    (∀ k, ((s.len + 7) / 8 ≤ k ∨ ∃ j, j ≤ k ∧ outsideUnit (s.iterate j) = true) →
      t.stream.read k = s.stream.read k) ∧
    ((∀ j, j < (s.len + 7) / 8 → outsideUnit (s.iterate j) = false) → t.err = s.err ∧ t.errCode = s.errCode) ∧
    ((∃ j, j < (s.len + 7) / 8 ∧ outsideUnit (s.iterate j) = true) →
      t.err = true ∧ t.errCode = if s.err then s.errCode else 0x20)

/-- O39. GEN's checks in order (R75): STREAM_RANGE unless 1 ≤ L ≤ L_MAX, then DEGENERATE_KEY unless the key is valid on
its raw bits (R74). The error is raised at the CMD write, which changes nothing but STATUS; exec, which repeats the
checks in every state (the model's choice, log 8), leaves the same error. -/
def Obligations.GenChecksInOrder : Prop :=
  ∀ s : State,
    (s.len = 0 ∨ s.params.lMax < s.len → CheckFails .gen s 0x15) ∧
    (1 ≤ s.len → s.len ≤ s.params.lMax →
      (s.keyX0 = 0 ∨ 0x3FEFFFFFFFFFFFFF < s.keyX0.toNat ∨ s.keyMu = 0 ∨ 0x4010000000000000 < s.keyMu.toNat) →
      CheckFails .gen s 0x16)

/-- O40. GEN is a function of KEY_X0, KEY_MU, L and GEN_EMIT_X0 (R72, R82): two GEN commands that start from equal values
of these, both with ERR = 0, end with the same STATUS and, if no error was raised, with the same bytes 0 to NB − 1,
whatever else differs. -/
def Obligations.GenIsDeterministic : Prop :=
  ∀ s s' : State, s.GenReady → s'.GenReady → s.keyX0 = s'.keyX0 → s.keyMu = s'.keyMu → s.len = s'.len →
    s.params.genEmitX0 = s'.params.genEmitX0 → s.err = false → s'.err = false → s.errCode = s'.errCode →
    ∃ t t', exec .gen s = .next t ∧ exec .gen s' = .next t' ∧
      t.readReg .status = t'.readReg .status ∧
      (t.err = false → ∀ k, k < (s.len + 7) / 8 → t.stream.read k = t'.stream.read k)

/-- O41. The worked example of R83: key (0.1, 3.9999), STREAM_LEN = 16, GEN_EMIT_X0 = 0. -/
def Obligations.GenWorkedExample : Prop :=
  logistic 0x400FFFCB923A29C7 0x3FB999999999999A = 0x3FD70A17B0F6AD71 ∧
  logistic 0x400FFFCB923A29C7 0x3FD70A17B0F6AD71 = 0x3FED7D79D34BC300 ∧
  ∀ s : State, s.keyX0 = 0x3FB999999999999A → s.keyMu = 0x400FFFCB923A29C7 → s.streamLen = 16 →
    s.params.genEmitX0 = false → 16 ≤ s.params.lMax →
    ∃ t, exec .gen s = .next t ∧ t.stream.read 0 = some 0x5C ∧ t.stream.read 1 = some 0xEB ∧ t.err = s.err

/-! ### Rotations -/

/-- O42. The lines (R85, R86; rows and columns R84): each is non-empty, its cells are exactly the block's cells with
j + i = k, i − j = l, the row or the column, and they stand by decreasing row on an anti-diagonal, by increasing row
on a diagonal and a column, by increasing column on a row. -/
def Obligations.LinesAreTheirCellSets : Prop :=
  ∀ m n : Nat, 1 ≤ m → 1 ≤ n →
    (∀ i, i < m → (rowLine n i).length = n ∧ (rowLine n i).Pairwise (fun a b => a.2 < b.2) ∧
      ∀ c, c ∈ rowLine n i ↔ c.1 = i ∧ c.2 < n) ∧
    (∀ j, j < n → (colLine m j).length = m ∧ (colLine m j).Pairwise (fun a b => a.1 < b.1) ∧
      ∀ c, c ∈ colLine m j ↔ c.2 = j ∧ c.1 < m) ∧
    (∀ k, k ≤ m + n - 2 → antiDiagLine m n k ≠ [] ∧
      (antiDiagLine m n k).length = min k (m - 1) - (k + 1 - n) + 1 ∧
      (antiDiagLine m n k).Pairwise (fun a b => b.1 < a.1) ∧
      ∀ c, c ∈ antiDiagLine m n k ↔ c.1 < m ∧ c.2 < n ∧ c.1 + c.2 = k) ∧
    (∀ l : Int, 1 - (n : Int) ≤ l → l ≤ (m : Int) - 1 → diagLine m n l ≠ [] ∧
      ((diagLine m n l).length : Int) = min ((m : Int) - 1) ((n : Int) - 1 + l) - max 0 l + 1 ∧
      (diagLine m n l).Pairwise (fun a b => a.1 < b.1) ∧
      ∀ c, c ∈ diagLine m n l ↔ c.1 < m ∧ c.2 < n ∧ (c.1 : Int) - c.2 = l)

/-- O43. ROTR completes and rotates row i (R84, R89, R93). -/
def Obligations.RotrRotatesItsRow : Prop :=
  ∀ (s : State) (row p : Nat) (d : Bool), s.GeomOk → row < s.sm → LineDefined s s.sn (rowCell row) →
    ∃ t, exec (.rotr row p d) s = .next t ∧ RotatedLine s t s.sn (rowCell row) p d

/-- O44. ROTC completes and rotates column j (R84, R89, R94). -/
def Obligations.RotcRotatesItsColumn : Prop :=
  ∀ (s : State) (col p : Nat) (d : Bool), s.GeomOk → col < s.sn → LineDefined s s.sm (colCell col) →
    ∃ t, exec (.rotc col p d) s = .next t ∧ RotatedLine s t s.sm (colCell col) p d

/-- O45. ROTA completes and rotates anti-diagonal k, in decreasing row (R85, R89, R95). -/
def Obligations.RotaRotatesItsAntiDiagonal : Prop :=
  ∀ (s : State) (k p : Nat) (d : Bool), s.GeomOk → k ≤ s.sm + s.sn - 2 →
    LineDefined s (antiDiagLen s.sm s.sn k) (antiDiagCell s.sm k) →
    ∃ t, exec (.rota k p d) s = .next t ∧
      RotatedLine s t (antiDiagLen s.sm s.sn k) (antiDiagCell s.sm k) p d

/-- O46. ROTD completes and rotates diagonal l, in increasing row (R86, R89, R96). -/
def Obligations.RotdRotatesItsDiagonal : Prop :=
  ∀ (s : State) (l : Int) (p : Nat) (d : Bool), s.GeomOk → 1 - (s.sn : Int) ≤ l → l ≤ (s.sm : Int) - 1 →
    LineDefined s (diagLen s.sm s.sn l) (diagCell l) →
    ∃ t, exec (.rotd l p d) s = .next t ∧ RotatedLine s t (diagLen s.sm s.sn l) (diagCell l) p d

/-- O47. The checks of the four rotation commands in order (R92): ZERO_BLOCK, GEOM_RANGE, BAD_SELECTOR. The error is
raised at the CMD write, which changes nothing but STATUS; exec, which repeats the checks in every state (the model's
choice, log 8), leaves the same error. -/
def Obligations.RotationsCheckInOrder : Prop :=
  ∀ (s : State) (i : Instr), isRotation i = true →
    (s.sm = 0 ∨ s.sn = 0 → CheckFails i s 0x10) ∧
    (1 ≤ s.sm → 1 ≤ s.sn → (s.params.smMax < s.sm ∨ s.params.snMax < s.sn) → CheckFails i s 0x11) ∧
    (s.GeomOk → ¬SelectorOk i s → CheckFails i s 0x17)

/-- O48. A rotation whose checks pass faults UNDEFINED_READ exactly if a byte of its line is undefined (R40, the Lean
model's clause), whatever the shift. -/
def Obligations.RotationFaultsExactlyOnUndefinedLine : Prop :=
  ∀ (s : State) (p : Nat) (d : Bool), s.GeomOk →
    (∀ row, row < s.sm → (exec (.rotr row p d) s = .fault .undefinedRead ↔
      ∃ j, j < s.sn ∧ s.buf.read (row * s.sn + j) = none)) ∧
    (∀ col, col < s.sn → (exec (.rotc col p d) s = .fault .undefinedRead ↔
      ∃ i, i < s.sm ∧ s.buf.read (i * s.sn + col) = none)) ∧
    (∀ k, k ≤ s.sm + s.sn - 2 → (exec (.rota k p d) s = .fault .undefinedRead ↔
      ∃ i j, i < s.sm ∧ j < s.sn ∧ i + j = k ∧ s.buf.read (i * s.sn + j) = none)) ∧
    (∀ l : Int, 1 - (s.sn : Int) ≤ l → l ≤ (s.sm : Int) - 1 →
      (exec (.rotd l p d) s = .fault .undefinedRead ↔
        ∃ i j : Nat, i < s.sm ∧ j < s.sn ∧ (i : Int) - j = l ∧ s.buf.read (i * s.sn + j) = none))

/-- O49. The involution law (R91): a rotation followed by the same rotation in the other direction restores the whole
state, for every line whose bytes are defined and every shift. -/
def Obligations.RotationUndoneByItsFlip : Prop :=
  ∀ (s : State) (i : Instr), isRotation i = true → s.GeomOk → SelectorOk i s → LineReadable i s →
    s.buf.wf = true →
    ∃ t, exec i s = .next t ∧ exec (flipDirection i) t = .next { s with pending := none }

/-- O50. Rotations of different lines of one family commute (R88). -/
def Obligations.DifferentLinesCommute : Prop :=
  ∀ (s : State) (i j : Instr), differentLines i j = true → s.GeomOk → SelectorOk i s → SelectorOk j s →
    LineReadable i s → LineReadable j s → s.buf.wf = true →
    ∃ t1 t2 t, exec i s = .next t1 ∧ exec j t1 = .next t ∧ exec j s = .next t2 ∧ exec i t2 = .next t

/-! ### APPLY -/

/-- O51. APPLY's checks in order (R99, R100), each with the earlier ones passing. The error is raised at the CMD write,
which changes nothing but STATUS; exec, which repeats the checks in every state (the model's choice, log 8), leaves the
same error. -/
def Obligations.ApplyChecksInOrder : Prop :=
  ∀ s : State,
    (s.sm = 0 ∨ s.sn = 0 → CheckFails .apply s 0x10) ∧
    (1 ≤ s.sm → 1 ≤ s.sn → (s.params.smMax < s.sm ∨ s.params.snMax < s.sn) → CheckFails .apply s 0x11) ∧
    (s.GeomOk → s.nIter = 0 → CheckFails .apply s 0x12) ∧
    (s.GeomOk → 1 ≤ s.nIter → (s.alpha = 0 ∨ s.beta = 0 ∨ s.gamma = 0) → CheckFails .apply s 0x13) ∧
    (s.GeomOk → 1 ≤ s.nIter → 1 ≤ s.alpha → 1 ≤ s.beta → 1 ≤ s.gamma →
      (s.len = 0 ∨ s.params.lMax < s.len) → CheckFails .apply s 0x15) ∧
    (s.GeomOk → 1 ≤ s.nIter → 1 ≤ s.alpha → 1 ≤ s.beta → 1 ≤ s.gamma → 1 ≤ s.len → s.len ≤ s.params.lMax →
      (2 ^ 64 - 1 < s.cursor.toNat + s.nIter * (3 * s.sm + 3 * s.sn - 2) ∨
        (s.decrypt = true ∧ s.cursor.toNat < s.nIter * (3 * s.sm + 3 * s.sn - 2))) →
      CheckFails .apply s 0x14)

/-- O52. APPLY completes whenever its checks pass and the bytes it reads, the block's and those that hold stream positions
C0 to C0 + CC − 1, are defined (R104, R108, R112): CURSOR becomes C0 + CC in Encrypt mode and C0 − CC in Decrypt mode,
the block's bytes are a permutation of what they were, BUF bytes from S_M · S_N on are as before, PENDING is none, and
nothing else changes. -/
def Obligations.ApplyCompletes : Prop :=
  ∀ s : State, s.ApplyReady → ∃ t, exec .apply s = .next t ∧
    t = { s with buf := t.buf, cursor := t.cursor, pending := none } ∧
    t.cursor.toNat = (if s.decrypt then s.cursor.toNat - s.nIter * (3 * s.sm + 3 * s.sn - 2)
      else s.cursor.toNat + s.nIter * (3 * s.sm + 3 * s.sn - 2)) ∧
    ((List.range (s.sm * s.sn)).map t.buf.read).Perm ((List.range (s.sm * s.sn)).map s.buf.read) ∧
    ∀ a, s.sm * s.sn ≤ a → t.buf.read a = s.buf.read a

/-- O53. The block APPLY leaves is the one the rotation commands of its rounds leave when they are issued one at a time,
with p(r) and the direction bits of R101, in the order of R103 (Encrypt) or of R106 and R107 (Decrypt). -/
def Obligations.ApplyIsItsRotationCommands : Prop :=
  ∀ s : State, s.ApplyReady → ∃ t u, exec .apply s = .next t ∧ execAll s.applyCommands s = .next u ∧
    u.buf = t.buf

/-- O54. The inverse law (R110): let an Encrypt APPLY map block X to Y, and let a Decrypt APPLY with equal S_M, S_N,
N_ITER, ALPHA, BETA, GAMMA, L and stream contents start at the same C0, with C0 ≥ CC, from Y. Then it leaves the block
equal to X, and its cursor is C0 − CC (R108). -/
def Obligations.DecryptUndoesEncrypt : Prop :=
  ∀ s t u : State, s.ApplyReady → s.decrypt = false → exec .apply s = .next t →
    u.decrypt = true → u.params = s.params → u.sm = s.sm → u.sn = s.sn → u.nIter = s.nIter →
    u.alpha = s.alpha → u.beta = s.beta → u.gamma = s.gamma → u.len = s.len → u.cursor = s.cursor →
    s.cc ≤ s.cursor.toNat →
    (∀ k, k < (s.len + 7) / 8 → u.stream.read k = s.stream.read k) →
    (∀ a, a < s.sm * s.sn → u.buf.read a = t.buf.read a) →
    ∃ v, exec .apply u = .next v ∧ (∀ a, a < s.sm * s.sn → v.buf.read a = s.buf.read a) ∧
      v.cursor.toNat = s.cursor.toNat - s.cc

/-- O55. On a 2 × 2 block every APPLY of either mode leaves the block as it is, whatever the stream, the weights and the
cursor (R111). -/
def Obligations.TwoByTwoBlockIsUnchanged : Prop :=
  ∀ s : State, s.ApplyReady → s.sm = 2 → s.sn = 2 → s.buf.wf = true →
    ∃ t, exec .apply s = .next t ∧ t.buf = s.buf

/-- O56. The direction-bit positions of a round take each value from q to q + RC − 1 exactly once, in either mode
(R102). -/
def Obligations.RoundPositionsAreConsecutive : Prop :=
  ∀ (e : Engine) (q : Nat), 1 ≤ e.sm → 1 ≤ e.sn →
    ((e.roundLines q).map LineTurn.pos).Perm (List.range' q (3 * e.sm + 3 * e.sn - 2))

/-- O57. An APPLY whose checks pass faults UNDEFINED_READ exactly if a block byte is undefined or a stream bit at one of
the positions C0 to C0 + CC − 1 is in an undefined byte (R102, R112, the Lean model's clause). -/
def Obligations.ApplyFaultsExactlyOnUndefined : Prop :=
  ∀ s : State, s.ApplyChecksPass →
    (exec .apply s = .fault .undefinedRead ↔
      (∃ a, a < s.sm * s.sn ∧ s.buf.read a = none) ∨
      (∃ n, s.cursor.toNat ≤ n ∧ n < s.cursor.toNat + s.cc ∧ streamBit s.stream s.len n = none))

/-- O58. The costs (R98): RC = 3·S_M + 3·S_N − 2 and CC = N_ITER · RC; RC ≥ 4 whenever S_M, S_N ≥ 1; with the limits on
the parameters RC ≤ 6142 and CC ≤ 65535 · 6142 < 2^29. -/
def Obligations.CallCostIsBounded : Prop :=
  ∀ s : State,
    s.engine.roundCost = 3 * s.sm + 3 * s.sn - 2 ∧ s.engine.callCost = s.nIter * s.engine.roundCost ∧
    (1 ≤ s.sm → 1 ≤ s.sn → 4 ≤ s.engine.roundCost) ∧
    (s.params.legal = true → s.GeomOk →
      s.engine.roundCost ≤ 6142 ∧ s.engine.callCost ≤ 65535 * 6142 ∧ s.engine.callCost < 2 ^ 29)

/-! ### The end of a run, and host programs -/

/-- O59. The final state of a run (R147): it has nothing scheduled and PENDING none, and it is where the scheduled turns
lead; a run that faults or is refused has none; and with x the host's last access, the run has a final state exactly if
nothing is pending right after x: a host that stops while BUSY = 1 has none (U5). That a run is the turns scheduled in
its first state is the model's choice (log 4), and how P6 is read is log 17. -/
def Obligations.FinalStateNeedsAnIdleUnit : Prop :=
  (∀ s t : State, s.finalState = some t →
    Host.Core.run Sys2Proof.core s.schedule.length s = .next t ∧ t.schedule = [] ∧ t.pending = none) ∧
  (∀ (s u t : State) (before after : List Turn) (x : Access), s.schedule = before ++ .host x :: after →
    (∀ y ∈ after, y.isHost = false) →
    Host.Core.run Sys2Proof.core (before.length + 1) s = .next u →
    Host.Core.run Sys2Proof.core s.schedule.length s = .next t →
    s.finalState = if u.pending = none then some t else none)

/-- O60. What host lines stand for (R70, R71): a program that assembles makes no malformed access (R45); `geom`,
`rounds`, `wts`, `slen` and `cur` write the one register with their operands in its fields and are refused when one does
not fit its field; a byte line is an 8-bit access to that byte of that memory and is refused beyond the capacity (where
the model refuses, log 15). -/
def Obligations.AssembledLinesReachTheirTargets : Prop :=
  ∀ p : Params, p.legal = true →
    (∀ (xs : List Line) (ts : List Turn) (x : Access), assembleProgram p xs = some ts → .host x ∈ ts →
      resolve p x.addr x.width ≠ none) ∧
    (∀ m n, assemble p (.geom m n) = if m < 65536 ∧ n < 65536 then
      some [.host ⟨p.unitBase + 0x038, .b64, .write (BitVec.ofNat 64 (n * 65536 + m))⟩] else none) ∧
    (∀ n, assemble p (.rounds n) = if n < 65536 then
      some [.host ⟨p.unitBase + 0x040, .b64, .write (BitVec.ofNat 64 n)⟩] else none) ∧
    (∀ a b g, assemble p (.wts a b g) = if a < 65536 ∧ b < 65536 ∧ g < 65536 then
      some [.host ⟨p.unitBase + 0x048, .b64, .write (BitVec.ofNat 64 (g * 4294967296 + b * 65536 + a))⟩] else none) ∧
    (∀ l, assemble p (.slen l) = if l < 4294967296 then
      some [.host ⟨p.unitBase + 0x030, .b64, .write (BitVec.ofNat 64 l)⟩] else none) ∧
    (∀ v, assemble p (.cur v) = if v < 18446744073709551616 then
      some [.host ⟨p.unitBase + 0x058, .b64, .write (BitVec.ofNat 64 v)⟩] else none) ∧
    (∀ a v, assemble p (.wrb a v) = if a < p.smMax * p.snMax then
      some [.host ⟨p.unitBase + 0x100000 + a, .b8, .write (v.setWidth 64)⟩] else none) ∧
    (∀ a, assemble p (.rdb a) = if a < p.smMax * p.snMax then
      some [.host ⟨p.unitBase + 0x100000 + a, .b8, .read⟩] else none) ∧
    (∀ a v, assemble p (.wrs a v) = if a < p.lMax / 8 then
      some [.host ⟨p.unitBase + 0x1000000 + a, .b8, .write (v.setWidth 64)⟩] else none) ∧
    (∀ a, assemble p (.rds a) = if a < p.lMax / 8 then
      some [.host ⟨p.unitBase + 0x1000000 + a, .b8, .read⟩] else none)
end

