-- ==== Sys2Proof/Laws/Memory.lean ====
section
/-! SUPPORT. The laws of byte memories: read after write, and that every memory operation keeps the canonical form
and the capacity. -/

namespace Sys2Proof.Machine

variable (m : Memory)

theorem Memory.read_write_same (a : Nat) (b : Byte) : (m.write a b).read a = some b := by
  induction m with
  | nil => simp [Memory.write, Memory.read]
  | cons c m ih =>
    obtain ⟨x, v⟩ := c
    unfold Memory.write
    split_ifs with h1 h2
    · simp [Memory.read]
    · simp [Memory.read]
    · simp [Memory.read, Ne.symm h2, ih]

theorem Memory.read_write_other (a : Nat) (b : Byte) {a' : Nat} (h : a' ≠ a) :
    (m.write a b).read a' = m.read a' := by
  induction m with
  | nil => simp [Memory.write, Memory.read, h.symm]
  | cons c m ih =>
    obtain ⟨x, v⟩ := c
    unfold Memory.write
    split_ifs with h1 h2
    · simp [Memory.read, h.symm]
    · subst h2; simp [Memory.read, h.symm]
    · simp [Memory.read, ih]

theorem Memory.read_write (a : Nat) (b : Byte) (a' : Nat) :
    (m.write a b).read a' = if a' = a then some b else m.read a' := by
  split_ifs with h
  · rw [h, read_write_same]
  · exact read_write_other m a b h

/-! ### The canonical form -/

theorem Memory.above_write {y a : Nat} (b : Byte) (hy : y < a) (h : m.above y = true) :
    (m.write a b).above y = true := by
  induction m with
  | nil => simp [Memory.write, Memory.above, hy]
  | cons c m ih =>
    obtain ⟨x, v⟩ := c
    simp only [Memory.above, Bool.and_eq_true, decide_eq_true_eq] at h
    unfold Memory.write
    split_ifs with h1 h2
    · simp [Memory.above, hy, h]
    · simp [Memory.above, hy, h]
    · simp [Memory.above, h.1, ih h.2]

theorem Memory.above_mono {x y : Nat} (hxy : y ≤ x) (h : m.above x = true) : m.above y = true := by
  induction m with
  | nil => rfl
  | cons c m ih =>
    obtain ⟨z, v⟩ := c
    simp only [Memory.above, Bool.and_eq_true, decide_eq_true_eq] at h ⊢
    exact ⟨by omega, ih h.2⟩

theorem Memory.wf_write (a : Nat) (b : Byte) (h : m.wf = true) : (m.write a b).wf = true := by
  induction m with
  | nil => rfl
  | cons c m ih =>
    obtain ⟨x, v⟩ := c
    simp only [Memory.wf, Bool.and_eq_true] at h
    unfold Memory.write
    split_ifs with h1 h2
    · simp [Memory.wf, Memory.above, h1, h, above_mono m (Nat.le_of_lt h1) h.1]
    · subst h2; simp [Memory.wf, h]
    · simp [Memory.wf, ih h.2, above_write m b (by omega : x < a) h.1]

theorem Memory.within_write {n a : Nat} (b : Byte) (ha : a < n) (h : m.within n = true) :
    (m.write a b).within n = true := by
  induction m with
  | nil => simp [Memory.write, Memory.within, ha]
  | cons c m ih =>
    obtain ⟨x, v⟩ := c
    simp only [Memory.within, Bool.and_eq_true, decide_eq_true_eq] at h
    unfold Memory.write
    split_ifs with h1 h2
    · simp [Memory.within, ha, h]
    · simp [Memory.within, ha, h]
    · simp [Memory.within, h.1, ih h.2]

theorem Memory.read_above {x a : Nat} (h : m.above x = true) (ha : a ≤ x) : m.read a = none := by
  induction m with
  | nil => rfl
  | cons c m ih =>
    obtain ⟨z, v⟩ := c
    simp only [Memory.above, Bool.and_eq_true, decide_eq_true_eq] at h
    simp [Memory.read, show z ≠ a by omega, ih h.2]

/-- A byte beyond the capacity has never been written. -/
theorem Memory.read_beyond {n a : Nat} (h : m.within n = true) (ha : n ≤ a) : m.read a = none := by
  induction m with
  | nil => rfl
  | cons c m ih =>
    obtain ⟨z, v⟩ := c
    simp only [Memory.within, Bool.and_eq_true, decide_eq_true_eq] at h
    simp [Memory.read, show z ≠ a by omega, ih h.2]

/-- Canonical memories that read alike are the same list. -/
theorem Memory.ext_of_read {m m' : Memory} (h : m.wf = true) (h' : m'.wf = true)
    (hr : ∀ a, m.read a = m'.read a) : m = m' := by
  induction m generalizing m' with
  | nil =>
    cases m' with
    | nil => rfl
    | cons c m' => obtain ⟨x, v⟩ := c; have := hr x; simp [Memory.read] at this
  | cons c m ih =>
    obtain ⟨x, v⟩ := c
    cases m' with
    | nil => have := hr x; simp [Memory.read] at this
    | cons c' m' =>
      obtain ⟨y, u⟩ := c'
      simp only [Memory.wf, Bool.and_eq_true] at h h'
      have hxy : x = y := by
        rcases Nat.lt_trichotomy x y with hlt | he | hlt
        · have := hr x
          simp [Memory.read, show y ≠ x by omega, read_above m' h'.1 (Nat.le_of_lt hlt)] at this
        · exact he
        · have := hr y
          simp [Memory.read, show x ≠ y by omega, read_above m h.1 (Nat.le_of_lt hlt)] at this
      subst hxy
      have huv := hr x
      simp only [Memory.read, if_true, Option.some.injEq] at huv
      subst huv
      rw [ih h.2 h'.2]
      intro a
      by_cases hax : a ≤ x
      · rw [read_above m h.1 hax, read_above m' h'.1 hax]
      · have := hr a
        simpa [Memory.read, show x ≠ a by omega] using this

/-! ### Reading and writing lists of bytes -/

/-- `readAll` answers exactly when every byte is defined, and then with what the bytes hold. -/
theorem Memory.readAll_eq_some (as : List Nat) (v : List Byte) :
    m.readAll as = some v ↔ as.map m.read = v.map some := by
  induction as generalizing v with
  | nil => cases v <;> simp [Memory.readAll]
  | cons a as ih =>
    unfold Memory.readAll
    cases v with
    | nil => split <;> simp
    | cons b bs =>
      rw [List.map_cons, List.map_cons, List.cons.injEq, ← ih]
      split <;> simp_all

theorem Memory.readAll_eq_none (as : List Nat) :
    m.readAll as = none ↔ ∃ a ∈ as, m.read a = none := by
  induction as with
  | nil => simp [Memory.readAll]
  | cons a as ih =>
    unfold Memory.readAll
    cases ha : m.read a with
    | none => simp [ha]
    | some b => cases hs : m.readAll as <;> simp_all

theorem Memory.writeAll_wf (ps : List (Nat × Byte)) (h : m.wf = true) : (m.writeAll ps).wf = true := by
  induction ps generalizing m with
  | nil => exact h
  | cons p ps ih => exact ih _ (wf_write m p.1 p.2 h)

theorem Memory.writeAll_within {n : Nat} (ps : List (Nat × Byte)) (hp : ∀ p ∈ ps, p.1 < n)
    (h : m.within n = true) : (m.writeAll ps).within n = true := by
  induction ps generalizing m with
  | nil => exact h
  | cons p ps ih =>
    exact ih _ (fun q hq => hp q (List.mem_cons_of_mem _ hq)) (within_write m p.2 (hp p (List.mem_cons_self ..)) h)

theorem Memory.read_writeAll_other (ps : List (Nat × Byte)) {a : Nat} (ha : ∀ p ∈ ps, p.1 ≠ a) :
    (m.writeAll ps).read a = m.read a := by
  induction ps generalizing m with
  | nil => rfl
  | cons p ps ih =>
    have h1 : a ≠ p.1 := (ha p (List.mem_cons_self ..)).symm
    exact (ih _ (fun q hq => ha q (List.mem_cons_of_mem _ hq))).trans (read_write_other m p.1 p.2 h1)

/-- Writing to distinct addresses: each holds what was written to it. -/
theorem Memory.read_writeAll_mem (ps : List (Nat × Byte)) (hn : (ps.map Prod.fst).Nodup) {a : Nat} {b : Byte}
    (h : (a, b) ∈ ps) : (m.writeAll ps).read a = some b := by
  induction ps generalizing m with
  | nil => simp at h
  | cons p ps ih =>
    simp only [List.map_cons, List.nodup_cons] at hn
    rcases List.mem_cons.mp h with h | h
    · subst h
      have : ∀ q ∈ ps, q.1 ≠ a := fun q hq he => hn.1 (List.mem_map.mpr ⟨q, hq, he⟩)
      exact (read_writeAll_other _ ps this).trans (read_write_same m a b)
    · exact ih _ hn.2 h

theorem Memory.writeFrom_wf (a : Nat) (bs : List Byte) (h : m.wf = true) : (m.writeFrom a bs).wf = true := by
  induction bs generalizing m a with
  | nil => exact h
  | cons b bs ih => exact ih _ _ (wf_write m a b h)

theorem Memory.writeFrom_within {n : Nat} (a : Nat) (bs : List Byte) (hn : a + bs.length ≤ n)
    (h : m.within n = true) : (m.writeFrom a bs).within n = true := by
  induction bs generalizing m a with
  | nil => exact h
  | cons b bs ih =>
    simp only [List.length_cons] at hn
    exact ih _ _ (by omega) (within_write m b (by omega) h)

/-- What `writeFrom a bs` leaves: byte a + k holds the k-th byte, every other byte is as before. -/
theorem Memory.read_writeFrom (a : Nat) (bs : List Byte) (x : Nat) :
    (m.writeFrom a bs).read x = if a ≤ x ∧ x < a + bs.length then bs[x - a]? else m.read x := by
  induction bs generalizing m a with
  | nil => simp [Memory.writeFrom]
  | cons b bs ih =>
    rw [Memory.writeFrom, ih, read_write]
    simp only [List.length_cons]
    by_cases hx : x = a
    · subst hx; simp
    · by_cases h1 : a ≤ x ∧ x < a + (bs.length + 1)
      · rw [if_pos h1, if_pos (by omega), show x - a = (x - (a + 1)) + 1 by omega, List.getElem?_cons_succ]
      · rw [if_neg h1, if_neg (by omega), if_neg hx]

end Sys2Proof.Machine
end

