-- ==== Sys2Proof/Laws/State.lean ====
section
/-! SUPPORT. One lemma per field per update of State, so that no proof unfolds a record update. -/

namespace Sys2Proof.Machine

variable (s : State)

@[simp] theorem State.setBuf_keyX0 (m : Memory) : (s.setBuf m).keyX0 = s.keyX0 := rfl
@[simp] theorem State.setBuf_keyMu (m : Memory) : (s.setBuf m).keyMu = s.keyMu := rfl
@[simp] theorem State.setBuf_streamLen (m : Memory) : (s.setBuf m).streamLen = s.streamLen := rfl
@[simp] theorem State.setBuf_geom (m : Memory) : (s.setBuf m).geom = s.geom := rfl
@[simp] theorem State.setBuf_rounds (m : Memory) : (s.setBuf m).rounds = s.rounds := rfl
@[simp] theorem State.setBuf_weights (m : Memory) : (s.setBuf m).weights = s.weights := rfl
@[simp] theorem State.setBuf_mode (m : Memory) : (s.setBuf m).mode = s.mode := rfl
@[simp] theorem State.setBuf_cursor (m : Memory) : (s.setBuf m).cursor = s.cursor := rfl
@[simp] theorem State.setBuf_err (m : Memory) : (s.setBuf m).err = s.err := rfl
@[simp] theorem State.setBuf_errCode (m : Memory) : (s.setBuf m).errCode = s.errCode := rfl
@[simp] theorem State.setBuf_buf (m : Memory) : (s.setBuf m).buf = m := rfl
@[simp] theorem State.setBuf_stream (m : Memory) : (s.setBuf m).stream = s.stream := rfl
@[simp] theorem State.setBuf_pending (m : Memory) : (s.setBuf m).pending = s.pending := rfl
@[simp] theorem State.setBuf_params (m : Memory) : (s.setBuf m).params = s.params := rfl
@[simp] theorem State.setBuf_schedule (m : Memory) : (s.setBuf m).schedule = s.schedule := rfl
@[simp] theorem State.setBuf_response (m : Memory) : (s.setBuf m).response = s.response := rfl
@[simp] theorem State.setBuf_draws (m : Memory) : (s.setBuf m).draws = s.draws := rfl

@[simp] theorem State.setStream_keyX0 (m : Memory) : (s.setStream m).keyX0 = s.keyX0 := rfl
@[simp] theorem State.setStream_keyMu (m : Memory) : (s.setStream m).keyMu = s.keyMu := rfl
@[simp] theorem State.setStream_streamLen (m : Memory) : (s.setStream m).streamLen = s.streamLen := rfl
@[simp] theorem State.setStream_geom (m : Memory) : (s.setStream m).geom = s.geom := rfl
@[simp] theorem State.setStream_rounds (m : Memory) : (s.setStream m).rounds = s.rounds := rfl
@[simp] theorem State.setStream_weights (m : Memory) : (s.setStream m).weights = s.weights := rfl
@[simp] theorem State.setStream_mode (m : Memory) : (s.setStream m).mode = s.mode := rfl
@[simp] theorem State.setStream_cursor (m : Memory) : (s.setStream m).cursor = s.cursor := rfl
@[simp] theorem State.setStream_err (m : Memory) : (s.setStream m).err = s.err := rfl
@[simp] theorem State.setStream_errCode (m : Memory) : (s.setStream m).errCode = s.errCode := rfl
@[simp] theorem State.setStream_buf (m : Memory) : (s.setStream m).buf = s.buf := rfl
@[simp] theorem State.setStream_stream (m : Memory) : (s.setStream m).stream = m := rfl
@[simp] theorem State.setStream_pending (m : Memory) : (s.setStream m).pending = s.pending := rfl
@[simp] theorem State.setStream_params (m : Memory) : (s.setStream m).params = s.params := rfl
@[simp] theorem State.setStream_schedule (m : Memory) : (s.setStream m).schedule = s.schedule := rfl
@[simp] theorem State.setStream_response (m : Memory) : (s.setStream m).response = s.response := rfl
@[simp] theorem State.setStream_draws (m : Memory) : (s.setStream m).draws = s.draws := rfl

@[simp] theorem State.setPending_keyX0 (w : Option Word) : (s.setPending w).keyX0 = s.keyX0 := rfl
@[simp] theorem State.setPending_keyMu (w : Option Word) : (s.setPending w).keyMu = s.keyMu := rfl
@[simp] theorem State.setPending_streamLen (w : Option Word) : (s.setPending w).streamLen = s.streamLen := rfl
@[simp] theorem State.setPending_geom (w : Option Word) : (s.setPending w).geom = s.geom := rfl
@[simp] theorem State.setPending_rounds (w : Option Word) : (s.setPending w).rounds = s.rounds := rfl
@[simp] theorem State.setPending_weights (w : Option Word) : (s.setPending w).weights = s.weights := rfl
@[simp] theorem State.setPending_mode (w : Option Word) : (s.setPending w).mode = s.mode := rfl
@[simp] theorem State.setPending_cursor (w : Option Word) : (s.setPending w).cursor = s.cursor := rfl
@[simp] theorem State.setPending_err (w : Option Word) : (s.setPending w).err = s.err := rfl
@[simp] theorem State.setPending_errCode (w : Option Word) : (s.setPending w).errCode = s.errCode := rfl
@[simp] theorem State.setPending_buf (w : Option Word) : (s.setPending w).buf = s.buf := rfl
@[simp] theorem State.setPending_stream (w : Option Word) : (s.setPending w).stream = s.stream := rfl
@[simp] theorem State.setPending_pending (w : Option Word) : (s.setPending w).pending = w := rfl
@[simp] theorem State.setPending_params (w : Option Word) : (s.setPending w).params = s.params := rfl
@[simp] theorem State.setPending_schedule (w : Option Word) : (s.setPending w).schedule = s.schedule := rfl
@[simp] theorem State.setPending_response (w : Option Word) : (s.setPending w).response = s.response := rfl
@[simp] theorem State.setPending_draws (w : Option Word) : (s.setPending w).draws = s.draws := rfl

@[simp] theorem State.setCursor_keyX0 (v : Word) : (s.setCursor v).keyX0 = s.keyX0 := rfl
@[simp] theorem State.setCursor_keyMu (v : Word) : (s.setCursor v).keyMu = s.keyMu := rfl
@[simp] theorem State.setCursor_streamLen (v : Word) : (s.setCursor v).streamLen = s.streamLen := rfl
@[simp] theorem State.setCursor_geom (v : Word) : (s.setCursor v).geom = s.geom := rfl
@[simp] theorem State.setCursor_rounds (v : Word) : (s.setCursor v).rounds = s.rounds := rfl
@[simp] theorem State.setCursor_weights (v : Word) : (s.setCursor v).weights = s.weights := rfl
@[simp] theorem State.setCursor_mode (v : Word) : (s.setCursor v).mode = s.mode := rfl
@[simp] theorem State.setCursor_cursor (v : Word) : (s.setCursor v).cursor = v := rfl
@[simp] theorem State.setCursor_err (v : Word) : (s.setCursor v).err = s.err := rfl
@[simp] theorem State.setCursor_errCode (v : Word) : (s.setCursor v).errCode = s.errCode := rfl
@[simp] theorem State.setCursor_buf (v : Word) : (s.setCursor v).buf = s.buf := rfl
@[simp] theorem State.setCursor_stream (v : Word) : (s.setCursor v).stream = s.stream := rfl
@[simp] theorem State.setCursor_pending (v : Word) : (s.setCursor v).pending = s.pending := rfl
@[simp] theorem State.setCursor_params (v : Word) : (s.setCursor v).params = s.params := rfl
@[simp] theorem State.setCursor_schedule (v : Word) : (s.setCursor v).schedule = s.schedule := rfl
@[simp] theorem State.setCursor_response (v : Word) : (s.setCursor v).response = s.response := rfl
@[simp] theorem State.setCursor_draws (v : Word) : (s.setCursor v).draws = s.draws := rfl

@[simp] theorem State.setError_keyX0 (e : Bool) (c : Byte) : (s.setError e c).keyX0 = s.keyX0 := rfl
@[simp] theorem State.setError_keyMu (e : Bool) (c : Byte) : (s.setError e c).keyMu = s.keyMu := rfl
@[simp] theorem State.setError_streamLen (e : Bool) (c : Byte) : (s.setError e c).streamLen = s.streamLen := rfl
@[simp] theorem State.setError_geom (e : Bool) (c : Byte) : (s.setError e c).geom = s.geom := rfl
@[simp] theorem State.setError_rounds (e : Bool) (c : Byte) : (s.setError e c).rounds = s.rounds := rfl
@[simp] theorem State.setError_weights (e : Bool) (c : Byte) : (s.setError e c).weights = s.weights := rfl
@[simp] theorem State.setError_mode (e : Bool) (c : Byte) : (s.setError e c).mode = s.mode := rfl
@[simp] theorem State.setError_cursor (e : Bool) (c : Byte) : (s.setError e c).cursor = s.cursor := rfl
@[simp] theorem State.setError_err (e : Bool) (c : Byte) : (s.setError e c).err = e := rfl
@[simp] theorem State.setError_errCode (e : Bool) (c : Byte) : (s.setError e c).errCode = c := rfl
@[simp] theorem State.setError_buf (e : Bool) (c : Byte) : (s.setError e c).buf = s.buf := rfl
@[simp] theorem State.setError_stream (e : Bool) (c : Byte) : (s.setError e c).stream = s.stream := rfl
@[simp] theorem State.setError_pending (e : Bool) (c : Byte) : (s.setError e c).pending = s.pending := rfl
@[simp] theorem State.setError_params (e : Bool) (c : Byte) : (s.setError e c).params = s.params := rfl
@[simp] theorem State.setError_schedule (e : Bool) (c : Byte) : (s.setError e c).schedule = s.schedule := rfl
@[simp] theorem State.setError_response (e : Bool) (c : Byte) : (s.setError e c).response = s.response := rfl
@[simp] theorem State.setError_draws (e : Bool) (c : Byte) : (s.setError e c).draws = s.draws := rfl

@[simp] theorem State.setSchedule_keyX0 (l : List Turn) : (s.setSchedule l).keyX0 = s.keyX0 := rfl
@[simp] theorem State.setSchedule_keyMu (l : List Turn) : (s.setSchedule l).keyMu = s.keyMu := rfl
@[simp] theorem State.setSchedule_streamLen (l : List Turn) : (s.setSchedule l).streamLen = s.streamLen := rfl
@[simp] theorem State.setSchedule_geom (l : List Turn) : (s.setSchedule l).geom = s.geom := rfl
@[simp] theorem State.setSchedule_rounds (l : List Turn) : (s.setSchedule l).rounds = s.rounds := rfl
@[simp] theorem State.setSchedule_weights (l : List Turn) : (s.setSchedule l).weights = s.weights := rfl
@[simp] theorem State.setSchedule_mode (l : List Turn) : (s.setSchedule l).mode = s.mode := rfl
@[simp] theorem State.setSchedule_cursor (l : List Turn) : (s.setSchedule l).cursor = s.cursor := rfl
@[simp] theorem State.setSchedule_err (l : List Turn) : (s.setSchedule l).err = s.err := rfl
@[simp] theorem State.setSchedule_errCode (l : List Turn) : (s.setSchedule l).errCode = s.errCode := rfl
@[simp] theorem State.setSchedule_buf (l : List Turn) : (s.setSchedule l).buf = s.buf := rfl
@[simp] theorem State.setSchedule_stream (l : List Turn) : (s.setSchedule l).stream = s.stream := rfl
@[simp] theorem State.setSchedule_pending (l : List Turn) : (s.setSchedule l).pending = s.pending := rfl
@[simp] theorem State.setSchedule_params (l : List Turn) : (s.setSchedule l).params = s.params := rfl
@[simp] theorem State.setSchedule_schedule (l : List Turn) : (s.setSchedule l).schedule = l := rfl
@[simp] theorem State.setSchedule_response (l : List Turn) : (s.setSchedule l).response = s.response := rfl
@[simp] theorem State.setSchedule_draws (l : List Turn) : (s.setSchedule l).draws = s.draws := rfl

@[simp] theorem State.setResponse_keyX0 (r : Response) : (s.setResponse r).keyX0 = s.keyX0 := rfl
@[simp] theorem State.setResponse_keyMu (r : Response) : (s.setResponse r).keyMu = s.keyMu := rfl
@[simp] theorem State.setResponse_streamLen (r : Response) : (s.setResponse r).streamLen = s.streamLen := rfl
@[simp] theorem State.setResponse_geom (r : Response) : (s.setResponse r).geom = s.geom := rfl
@[simp] theorem State.setResponse_rounds (r : Response) : (s.setResponse r).rounds = s.rounds := rfl
@[simp] theorem State.setResponse_weights (r : Response) : (s.setResponse r).weights = s.weights := rfl
@[simp] theorem State.setResponse_mode (r : Response) : (s.setResponse r).mode = s.mode := rfl
@[simp] theorem State.setResponse_cursor (r : Response) : (s.setResponse r).cursor = s.cursor := rfl
@[simp] theorem State.setResponse_err (r : Response) : (s.setResponse r).err = s.err := rfl
@[simp] theorem State.setResponse_errCode (r : Response) : (s.setResponse r).errCode = s.errCode := rfl
@[simp] theorem State.setResponse_buf (r : Response) : (s.setResponse r).buf = s.buf := rfl
@[simp] theorem State.setResponse_stream (r : Response) : (s.setResponse r).stream = s.stream := rfl
@[simp] theorem State.setResponse_pending (r : Response) : (s.setResponse r).pending = s.pending := rfl
@[simp] theorem State.setResponse_params (r : Response) : (s.setResponse r).params = s.params := rfl
@[simp] theorem State.setResponse_schedule (r : Response) : (s.setResponse r).schedule = s.schedule := rfl
@[simp] theorem State.setResponse_response (r : Response) : (s.setResponse r).response = r := rfl
@[simp] theorem State.setResponse_draws (r : Response) : (s.setResponse r).draws = s.draws := rfl

@[simp] theorem State.setDraws_keyX0 (n : Nat) : (s.setDraws n).keyX0 = s.keyX0 := rfl
@[simp] theorem State.setDraws_keyMu (n : Nat) : (s.setDraws n).keyMu = s.keyMu := rfl
@[simp] theorem State.setDraws_streamLen (n : Nat) : (s.setDraws n).streamLen = s.streamLen := rfl
@[simp] theorem State.setDraws_geom (n : Nat) : (s.setDraws n).geom = s.geom := rfl
@[simp] theorem State.setDraws_rounds (n : Nat) : (s.setDraws n).rounds = s.rounds := rfl
@[simp] theorem State.setDraws_weights (n : Nat) : (s.setDraws n).weights = s.weights := rfl
@[simp] theorem State.setDraws_mode (n : Nat) : (s.setDraws n).mode = s.mode := rfl
@[simp] theorem State.setDraws_cursor (n : Nat) : (s.setDraws n).cursor = s.cursor := rfl
@[simp] theorem State.setDraws_err (n : Nat) : (s.setDraws n).err = s.err := rfl
@[simp] theorem State.setDraws_errCode (n : Nat) : (s.setDraws n).errCode = s.errCode := rfl
@[simp] theorem State.setDraws_buf (n : Nat) : (s.setDraws n).buf = s.buf := rfl
@[simp] theorem State.setDraws_stream (n : Nat) : (s.setDraws n).stream = s.stream := rfl
@[simp] theorem State.setDraws_pending (n : Nat) : (s.setDraws n).pending = s.pending := rfl
@[simp] theorem State.setDraws_params (n : Nat) : (s.setDraws n).params = s.params := rfl
@[simp] theorem State.setDraws_schedule (n : Nat) : (s.setDraws n).schedule = s.schedule := rfl
@[simp] theorem State.setDraws_response (n : Nat) : (s.setDraws n).response = s.response := rfl
@[simp] theorem State.setDraws_draws (n : Nat) : (s.setDraws n).draws = n := rfl

@[simp] theorem State.finish_keyX0 : s.finish.keyX0 = s.keyX0 := rfl
@[simp] theorem State.finish_keyMu : s.finish.keyMu = s.keyMu := rfl
@[simp] theorem State.finish_streamLen : s.finish.streamLen = s.streamLen := rfl
@[simp] theorem State.finish_geom : s.finish.geom = s.geom := rfl
@[simp] theorem State.finish_rounds : s.finish.rounds = s.rounds := rfl
@[simp] theorem State.finish_weights : s.finish.weights = s.weights := rfl
@[simp] theorem State.finish_mode : s.finish.mode = s.mode := rfl
@[simp] theorem State.finish_cursor : s.finish.cursor = s.cursor := rfl
@[simp] theorem State.finish_err : s.finish.err = s.err := rfl
@[simp] theorem State.finish_errCode : s.finish.errCode = s.errCode := rfl
@[simp] theorem State.finish_buf : s.finish.buf = s.buf := rfl
@[simp] theorem State.finish_stream : s.finish.stream = s.stream := rfl
@[simp] theorem State.finish_pending : s.finish.pending = none := rfl
@[simp] theorem State.finish_params : s.finish.params = s.params := rfl
@[simp] theorem State.finish_schedule : s.finish.schedule = s.schedule := rfl
@[simp] theorem State.finish_response : s.finish.response = s.response := rfl
@[simp] theorem State.finish_draws : s.finish.draws = s.draws := rfl

@[simp] theorem State.clearError_keyX0 : s.clearError.keyX0 = s.keyX0 := rfl
@[simp] theorem State.clearError_keyMu : s.clearError.keyMu = s.keyMu := rfl
@[simp] theorem State.clearError_streamLen : s.clearError.streamLen = s.streamLen := rfl
@[simp] theorem State.clearError_geom : s.clearError.geom = s.geom := rfl
@[simp] theorem State.clearError_rounds : s.clearError.rounds = s.rounds := rfl
@[simp] theorem State.clearError_weights : s.clearError.weights = s.weights := rfl
@[simp] theorem State.clearError_mode : s.clearError.mode = s.mode := rfl
@[simp] theorem State.clearError_cursor : s.clearError.cursor = s.cursor := rfl
@[simp] theorem State.clearError_err : s.clearError.err = false := rfl
@[simp] theorem State.clearError_errCode : s.clearError.errCode = 0 := rfl
@[simp] theorem State.clearError_buf : s.clearError.buf = s.buf := rfl
@[simp] theorem State.clearError_stream : s.clearError.stream = s.stream := rfl
@[simp] theorem State.clearError_pending : s.clearError.pending = s.pending := rfl
@[simp] theorem State.clearError_params : s.clearError.params = s.params := rfl
@[simp] theorem State.clearError_schedule : s.clearError.schedule = s.schedule := rfl
@[simp] theorem State.clearError_response : s.clearError.response = s.response := rfl
@[simp] theorem State.clearError_draws : s.clearError.draws = s.draws := rfl

@[simp] theorem State.afterReset_keyX0 : s.afterReset.keyX0 = 0 := rfl
@[simp] theorem State.afterReset_keyMu : s.afterReset.keyMu = 0 := rfl
@[simp] theorem State.afterReset_streamLen : s.afterReset.streamLen = 0 := rfl
@[simp] theorem State.afterReset_geom : s.afterReset.geom = 0 := rfl
@[simp] theorem State.afterReset_rounds : s.afterReset.rounds = 0 := rfl
@[simp] theorem State.afterReset_weights : s.afterReset.weights = 0 := rfl
@[simp] theorem State.afterReset_mode : s.afterReset.mode = 0 := rfl
@[simp] theorem State.afterReset_cursor : s.afterReset.cursor = 0 := rfl
@[simp] theorem State.afterReset_err : s.afterReset.err = false := rfl
@[simp] theorem State.afterReset_errCode : s.afterReset.errCode = 0 := rfl
@[simp] theorem State.afterReset_buf : s.afterReset.buf = [] := rfl
@[simp] theorem State.afterReset_stream : s.afterReset.stream = [] := rfl
@[simp] theorem State.afterReset_pending : s.afterReset.pending = none := rfl
@[simp] theorem State.afterReset_params : s.afterReset.params = s.params := rfl
@[simp] theorem State.afterReset_schedule : s.afterReset.schedule = s.schedule := rfl
@[simp] theorem State.afterReset_response : s.afterReset.response = s.response := rfl
@[simp] theorem State.afterReset_draws : s.afterReset.draws = s.draws := rfl

@[simp] theorem State.resetOf_keyX0 (p : Params) : (State.resetOf p).keyX0 = 0 := rfl
@[simp] theorem State.resetOf_keyMu (p : Params) : (State.resetOf p).keyMu = 0 := rfl
@[simp] theorem State.resetOf_streamLen (p : Params) : (State.resetOf p).streamLen = 0 := rfl
@[simp] theorem State.resetOf_geom (p : Params) : (State.resetOf p).geom = 0 := rfl
@[simp] theorem State.resetOf_rounds (p : Params) : (State.resetOf p).rounds = 0 := rfl
@[simp] theorem State.resetOf_weights (p : Params) : (State.resetOf p).weights = 0 := rfl
@[simp] theorem State.resetOf_mode (p : Params) : (State.resetOf p).mode = 0 := rfl
@[simp] theorem State.resetOf_cursor (p : Params) : (State.resetOf p).cursor = 0 := rfl
@[simp] theorem State.resetOf_err (p : Params) : (State.resetOf p).err = false := rfl
@[simp] theorem State.resetOf_errCode (p : Params) : (State.resetOf p).errCode = 0 := rfl
@[simp] theorem State.resetOf_buf (p : Params) : (State.resetOf p).buf = [] := rfl
@[simp] theorem State.resetOf_stream (p : Params) : (State.resetOf p).stream = [] := rfl
@[simp] theorem State.resetOf_pending (p : Params) : (State.resetOf p).pending = none := rfl
@[simp] theorem State.resetOf_params (p : Params) : (State.resetOf p).params = p := rfl
@[simp] theorem State.resetOf_schedule (p : Params) : (State.resetOf p).schedule = [] := rfl
@[simp] theorem State.resetOf_response (p : Params) : (State.resetOf p).response = .none := rfl
@[simp] theorem State.resetOf_draws (p : Params) : (State.resetOf p).draws = 0 := rfl

/-- `raise` touches ERR and ERRCODE alone (R121). -/
theorem State.raise_eq (c : ErrorCode) :
    s.raise c = s.setError true (if s.err then s.errCode else c.bits) := by
  cases h : s.err <;> simp [State.raise, h, State.setError]
  rw [← h]

@[simp] theorem State.raise_keyX0 (c : ErrorCode) : (s.raise c).keyX0 = s.keyX0 := by simp [State.raise_eq]
@[simp] theorem State.raise_keyMu (c : ErrorCode) : (s.raise c).keyMu = s.keyMu := by simp [State.raise_eq]
@[simp] theorem State.raise_streamLen (c : ErrorCode) : (s.raise c).streamLen = s.streamLen := by simp [State.raise_eq]
@[simp] theorem State.raise_geom (c : ErrorCode) : (s.raise c).geom = s.geom := by simp [State.raise_eq]
@[simp] theorem State.raise_rounds (c : ErrorCode) : (s.raise c).rounds = s.rounds := by simp [State.raise_eq]
@[simp] theorem State.raise_weights (c : ErrorCode) : (s.raise c).weights = s.weights := by simp [State.raise_eq]
@[simp] theorem State.raise_mode (c : ErrorCode) : (s.raise c).mode = s.mode := by simp [State.raise_eq]
@[simp] theorem State.raise_cursor (c : ErrorCode) : (s.raise c).cursor = s.cursor := by simp [State.raise_eq]
@[simp] theorem State.raise_buf (c : ErrorCode) : (s.raise c).buf = s.buf := by simp [State.raise_eq]
@[simp] theorem State.raise_stream (c : ErrorCode) : (s.raise c).stream = s.stream := by simp [State.raise_eq]
@[simp] theorem State.raise_pending (c : ErrorCode) : (s.raise c).pending = s.pending := by simp [State.raise_eq]
@[simp] theorem State.raise_params (c : ErrorCode) : (s.raise c).params = s.params := by simp [State.raise_eq]
@[simp] theorem State.raise_schedule (c : ErrorCode) : (s.raise c).schedule = s.schedule := by simp [State.raise_eq]
@[simp] theorem State.raise_response (c : ErrorCode) : (s.raise c).response = s.response := by simp [State.raise_eq]
@[simp] theorem State.raise_draws (c : ErrorCode) : (s.raise c).draws = s.draws := by simp [State.raise_eq]
@[simp] theorem State.raise_err (c : ErrorCode) : (s.raise c).err = true := by simp [State.raise_eq]
@[simp] theorem State.raise_errCode (c : ErrorCode) :
    (s.raise c).errCode = if s.err then s.errCode else c.bits := by simp [State.raise_eq]

end Sys2Proof.Machine
end

