-- ==== Sys2Proof/Laws/Rotate.lean ====
section
/-! SUPPORT. What Rotate and the body of the rotation commands can do, said once (41_rotation.md R89, R92). -/

namespace Sys2Proof.Machine

theorem rotated_length (v : List Byte) (s : Nat) : (rotated v s).length = v.length := by simp [rotated]

theorem rotated_getElem (v : List Byte) (s t : Nat) (h : t < (rotated v s).length) :
    (rotated v s)[t] = v.getD ((t + s) % v.length) 0 := by simp [rotated]

theorem rotateLine_eq_none (addrs : List Nat) (p : Nat) (d : Bool) (m : Memory) :
    rotateLine addrs p d m = none ↔ ∃ a ∈ addrs, m.read a = none := by
  rw [← Memory.readAll_eq_none]
  unfold rotateLine
  split <;> simp_all

/-- Rotate keeps the canonical form. -/
theorem rotateLine_wf {addrs : List Nat} {p : Nat} {d : Bool} {m m' : Memory}
    (h : rotateLine addrs p d m = some m') (hm : m.wf = true) : m'.wf = true := by
  unfold rotateLine at h
  split at h
  · cases h
  · cases h; exact Memory.writeAll_wf m _ hm

/-- Rotate writes only the bytes of its line. -/
theorem rotateLine_within {addrs : List Nat} {p : Nat} {d : Bool} {m m' : Memory} {n : Nat}
    (h : rotateLine addrs p d m = some m') (ha : ∀ a ∈ addrs, a < n) (hm : m.within n = true) :
    m'.within n = true := by
  unfold rotateLine at h
  split at h
  · cases h
  · cases h
    exact Memory.writeAll_within m _ (fun q hq => ha _ (List.of_mem_zip hq).1) hm

/-- Rotate changes no byte outside its line (R89). -/
theorem rotateLine_read_other {addrs : List Nat} {p : Nat} {d : Bool} {m m' : Memory} {a : Nat}
    (h : rotateLine addrs p d m = some m') (ha : a ∉ addrs) : m'.read a = m.read a := by
  unfold rotateLine at h
  split at h
  · cases h
  · cases h
    refine Memory.read_writeAll_other m _ fun q hq he => ha ?_
    exact he ▸ (List.of_mem_zip hq).1

/-- On a line of distinct bytes, position t takes what position (t + shift) mod n held (R89). -/
theorem rotateLine_read_line {addrs : List Nat} {p : Nat} {d : Bool} {m m' : Memory}
    (h : rotateLine addrs p d m = some m') (hn : addrs.Nodup) {t : Nat} (ht : t < addrs.length) :
    m'.read addrs[t] =
      m.read (addrs[(t + effectiveShift addrs.length p d) % addrs.length]'(Nat.mod_lt _ (by omega))) := by
  unfold rotateLine at h
  split at h
  · cases h
  · rename_i v hv
    cases h
    have hmap := (Memory.readAll_eq_some m addrs v).mp hv
    have hlen : addrs.length = v.length := by simpa using congrArg List.length hmap
    have hu : (t + effectiveShift addrs.length p d) % addrs.length < addrs.length := Nat.mod_lt _ (by omega)
    have hget : m.read addrs[(t + effectiveShift addrs.length p d) % addrs.length] =
        some (v[(t + effectiveShift addrs.length p d) % addrs.length]'(by omega)) := by
      have := congrArg (fun l => l[(t + effectiveShift addrs.length p d) % addrs.length]?) hmap
      have hu' : (t + effectiveShift addrs.length p d) % addrs.length < v.length := by omega
      simpa [List.getElem?_eq_getElem hu, List.getElem?_eq_getElem hu'] using this
    rw [hget]
    have hrl : (rotated v (effectiveShift addrs.length p d)).length = addrs.length := by
      rw [rotated_length, hlen]
    refine Memory.read_writeAll_mem m _ ?_ ?_
    · rw [List.map_fst_zip (by omega)]; exact hn
    · rw [List.mem_iff_getElem]
      refine ⟨t, by simp [hrl, ht], ?_⟩
      rw [List.getElem_zip, rotated_getElem]
      simp only [← hlen]
      rw [List.getD_eq_getElem _ _ (by omega)]

/-- The three outcomes of a rotation command: a failed check (R92), an undefined byte on its line (R40), or the
rotated line and no other change. -/
theorem rotateCommand_cases (s : State) (selOk : Bool) (line : List Cell) (p : Nat) (d : Bool) :
    (∃ c, rotCheck s selOk = some c ∧ rotateCommand s selOk line p d = .next (s.raise c).finish) ∨
    (rotCheck s selOk = none ∧ (∃ a ∈ lineAddrs s.sn line, s.buf.read a = none) ∧
      rotateCommand s selOk line p d = .fault .undefinedRead) ∨
    (rotCheck s selOk = none ∧ ∃ m, rotateLine (lineAddrs s.sn line) p d s.buf = some m ∧
      rotateCommand s selOk line p d = .next (s.setBuf m).finish) := by
  unfold rotateCommand State.checked
  cases hc : rotCheck s selOk with
  | some c => exact .inl ⟨c, rfl, rfl⟩
  | none =>
    cases hr : rotateLine (lineAddrs s.sn line) p d s.buf with
    | none => exact .inr (.inl ⟨rfl, (rotateLine_eq_none ..).mp hr, rfl⟩)
    | some m => exact .inr (.inr ⟨rfl, m, rfl, rfl⟩)

end Sys2Proof.Machine
end

