-- ==== Sys2Proof/Laws/Apply.lean ====
section
/-! SUPPORT. What the rounds of APPLY and APPLY can do, said once (42_subhcie.md R103, R107, R112). -/

namespace Sys2Proof.Machine

variable (e : Engine)

theorem Engine.runLines_append (p : Nat) (xs ys : List LineTurn) (m : Memory) :
    e.runLines p (xs ++ ys) m = (e.runLines p xs m).bind (e.runLines p ys) := by
  induction xs generalizing m with
  | nil => rfl
  | cons x xs ih =>
    simp only [List.cons_append, Engine.runLines]
    split
    · rfl
    · split
      · rfl
      · exact ih _

theorem Engine.runRounds_append (rs ss : List Nat) (m : Memory) :
    e.runRounds (rs ++ ss) m = (e.runRounds rs m).bind (e.runRounds ss) := by
  induction rs generalizing m with
  | nil => rfl
  | cons r rs ih =>
    simp only [List.cons_append, Engine.runRounds]
    split
    · rfl
    · exact ih _

/-- A property of BUF that every rotation of a line keeps is kept by a list of line rotations. -/
theorem Engine.runLines_keeps {P : Memory → Prop} {p : Nat} {xs : List LineTurn}
    (hP : ∀ x ∈ xs, ∀ d m m', rotateLine (lineAddrs e.sn x.line) p d m = some m' → P m → P m')
    {m m' : Memory} (h : e.runLines p xs m = some m') (hm : P m) : P m' := by
  induction xs generalizing m with
  | nil => cases h; exact hm
  | cons x xs ih =>
    unfold Engine.runLines at h
    split at h
    · cases h
    · split at h
      · cases h
      · rename_i hr
        exact ih (fun y hy => hP y (List.mem_cons_of_mem _ hy)) h (hP x (List.mem_cons_self ..) _ _ _ hr hm)

/-- A property of BUF that every round keeps is kept by a list of rounds. -/
theorem Engine.runRounds_keeps {P : Memory → Prop} {rs : List Nat}
    (hP : ∀ r ∈ rs, ∀ m m', e.runRound r m = some m' → P m → P m')
    {m m' : Memory} (h : e.runRounds rs m = some m') (hm : P m) : P m' := by
  induction rs generalizing m with
  | nil => cases h; exact hm
  | cons r rs ih =>
    unfold Engine.runRounds at h
    split at h
    · cases h
    · rename_i hr
      exact ih (fun y hy => hP y (List.mem_cons_of_mem _ hy)) h (hP r (List.mem_cons_self ..) _ _ hr hm)

/-- The rounds keep the canonical form of BUF. -/
theorem Engine.runRounds_wf {rs : List Nat} {m m' : Memory} (h : e.runRounds rs m = some m')
    (hm : m.wf = true) : m'.wf = true := by
  refine e.runRounds_keeps (P := fun m => m.wf = true) (fun r _ m m' hr hw => ?_) h hm
  unfold Engine.runRound at hr
  split at hr
  · cases hr
  · exact e.runLines_keeps (P := fun m => m.wf = true) (fun _ _ _ _ _ => rotateLine_wf) hr hw

/-- The three outcomes of APPLY: a failed check (R99), an undefined byte (R112), or the rounds' block with the new
cursor and no other change. -/
theorem execApply_cases (s : State) :
    (∃ c, applyCheck s = some c ∧ execApply s = .next (s.raise c).finish) ∨
    (applyCheck s = none ∧ s.engine.runRounds s.engine.roundOrder s.buf = none ∧
      execApply s = .fault .undefinedRead) ∨
    (applyCheck s = none ∧ ∃ m, s.engine.runRounds s.engine.roundOrder s.buf = some m ∧
      execApply s = .next ((s.setBuf m).setCursor s.engine.cursorAfter).finish) := by
  unfold execApply State.checked
  cases hc : applyCheck s with
  | some c => exact .inl ⟨c, rfl, rfl⟩
  | none =>
    cases hr : s.engine.runRounds s.engine.roundOrder s.buf with
    | none => exact .inr (.inl ⟨rfl, rfl, rfl⟩)
    | some m => exact .inr (.inr ⟨rfl, m, rfl, rfl⟩)

end Sys2Proof.Machine
end

