-- ==== Sys2Proof/Laws/Decode.lean ====
section
/-! SUPPORT. The fields of a packed command word (30_encoding.md R62), bit by bit. -/

namespace Sys2Proof

/-- Every bit of a format-R word. -/
theorem packR_getLsbD (op : Byte) (sel : BitVec 16) (p : Nat) (d : Bool) (k : Nat) :
    (packR op sel p d).getLsbD k =
      if k < 8 then op.getLsbD k
      else if k < 9 then d
      else if k < 16 then false
      else if k < 32 then sel.getLsbD (k - 16)
      else (BitVec.ofNat 32 p).getLsbD (k - 32) := by
  unfold packR
  simp only [BitVec.getLsbD_append, BitVec.getLsbD_ofBool, BitVec.getLsbD_zero]
  rw [show k - 8 - 1 - 7 - 16 = k - 32 by omega, show k - 8 - 1 - 7 = k - 16 by omega]
  split_ifs <;> simp_all <;> omega

/-- Every bit of a format-Z word. -/
theorem packZ_getLsbD (op : Byte) (k : Nat) :
    (packZ op).getLsbD k = if k < 8 then op.getLsbD k else false := by
  unfold packZ
  simp only [BitVec.getLsbD_append, BitVec.getLsbD_zero]

end Sys2Proof
end

