-- ==== Sys2Proof/Laws/Gen.lean ====
section
/-! SUPPORT. What GEN's loop and GEN can do, said once (40_bitgen.md R76, R80). -/

namespace Sys2Proof.Machine

theorem genLoop_length_le (mu : Word) (n : Nat) (x : Word) : (genLoop mu n x).bytes.length ≤ n := by
  induction n generalizing x with
  | zero => simp [genLoop]
  | succ n ih =>
    unfold genLoop
    split
    · simp
    · simpa using ih _

theorem genLoop_length (mu : Word) (n : Nat) (x : Word) (h : (genLoop mu n x).aborted = false) :
    (genLoop mu n x).bytes.length = n := by
  induction n generalizing x with
  | zero => rfl
  | succ n ih =>
    unfold genLoop at h ⊢
    split at h
    · cases h
    · simpa [*] using ih _ h

/-- The two outcomes of GEN: a failed check (R75), or the bytes of the loop and, if it stopped early,
NUMERIC_RANGE (R80). -/
theorem execGen_cases (s : State) :
    (∃ c, genCheck s = some c ∧ execGen s = .next (s.raise c).finish) ∨
    (genCheck s = none ∧ s.genRun.aborted = false ∧
      execGen s = .next (s.setStream (s.stream.writeFrom 0 s.genRun.bytes)).finish) ∨
    (genCheck s = none ∧ s.genRun.aborted = true ∧
      execGen s = .next ((s.setStream (s.stream.writeFrom 0 s.genRun.bytes)).raise .numericRange).finish) := by
  unfold execGen State.checked
  cases hc : genCheck s with
  | some c => exact .inl ⟨c, rfl, rfl⟩
  | none => cases ha : s.genRun.aborted <;> simp

end Sys2Proof.Machine
end

