-- ==== Sys2Proof/Laws/PerInstr.lean ====
section
/-! SUPPORT. Statements about every instruction as syntax, one lemma a constructor. -/

namespace Sys2Proof.Laws.TableMatch

/-- The mask column of spec/opcode_table.json. -/
def mask : Instr → Word
  | .nop => 0xFFFFFFFFFFFFFFFF
  | .srst => 0x00000000000000FF
  | .gen => 0xFFFFFFFFFFFFFFFF
  | .rotr _ _ _ => 0x000000000000FEFF
  | .rotc _ _ _ => 0x000000000000FEFF
  | .rota _ _ _ => 0x000000000000FEFF
  | .rotd _ _ _ => 0x000000000000FEFF
  | .apply => 0xFFFFFFFFFFFFFFFF

/-- The match column of spec/opcode_table.json. -/
def pattern : Instr → Word
  | .nop => 0x00
  | .srst => 0x01
  | .gen => 0x10
  | .rotr _ _ _ => 0x20
  | .rotc _ _ _ => 0x21
  | .rota _ _ _ => 0x22
  | .rotd _ _ _ => 0x23
  | .apply => 0x30

/-- The encoded word matches its row of the opcode table. -/
def Statement (i : Instr) : Prop := encode i &&& mask i = pattern i

/-- The fixed bits of a format-R word, whatever its operands. -/
theorem packR_masked (op : Byte) (sel : BitVec 16) (p : Nat) (d : Bool) :
    packR op sel p d &&& 0x000000000000FEFF = op.setWidth 64 := by
  apply BitVec.eq_of_getLsbD_eq
  intro k hk
  rw [BitVec.getLsbD_and, packR_getLsbD, BitVec.getLsbD_setWidth]
  by_cases h : k < 16
  · interval_cases k <;> simp
  · have h9 : op.getLsbD k = false := BitVec.getLsbD_of_ge op k (by omega)
    have hm : (0x000000000000FEFF : Word).getLsbD k = false := by interval_cases k <;> first | omega | rfl
    rw [hm, h9, Bool.and_false, Bool.and_false]

theorem nop : Statement .nop := rfl
theorem srst : Statement .srst := rfl
theorem gen : Statement .gen := rfl
theorem rotr (row p : Nat) (d : Bool) : Statement (.rotr row p d) := packR_masked ..
theorem rotc (col p : Nat) (d : Bool) : Statement (.rotc col p d) := packR_masked ..
theorem rota (k p : Nat) (d : Bool) : Statement (.rota k p d) := packR_masked ..
theorem rotd (l : Int) (p : Nat) (d : Bool) : Statement (.rotd l p d) := packR_masked ..
theorem apply : Statement .apply := rfl

end Sys2Proof.Laws.TableMatch
end

