-- ==== Sys2Proof/Laws/Port.lean ====
section
/-! SUPPORT. What one access and one step can do, said once (20_memory.md R53 to R55, 43_control.md R115 to R118). -/

namespace Sys2Proof.Machine

/-- A byte read answers in one of three ways (R116, R117, R55, R40). -/
theorem readByte_cases (m : Memory) (a : Nat) (s : State) :
    (s.busy = true ∧ readByte m a s =
      .next ((s.setResponse (.byte (Config.freeByte s.draws))).setDraws (s.draws + 1))) ∨
    (s.busy = false ∧ m.read a = none ∧ readByte m a s = .fault .undefinedRead) ∨
    (s.busy = false ∧ ∃ b, m.read a = some b ∧ readByte m a s = .next (s.setResponse (.byte b))) := by
  unfold readByte
  cases hb : s.busy with
  | true => exact .inl ⟨rfl, rfl⟩
  | false =>
    cases hr : m.read a with
    | none => exact .inr (.inl ⟨rfl, rfl, by simp⟩)
    | some b => exact .inr (.inr ⟨rfl, b, rfl, by simp⟩)

/-- A register write that is no command: STATUS in every state, the drop while BUSY, the store (R115). -/
theorem writeRegister_cases (r : Reg) (v : Word) (s : State) :
    (r = .cmd ∧ writeRegister r v s = submit v s) ∨
    (r = .status ∧ writeRegister r v s = .next (if v.getLsbD 1 then s.clearError else s)) ∨
    (r ≠ .cmd ∧ r ≠ .status ∧ s.busy = true ∧ writeRegister r v s = .next (s.raise .busyAccess)) ∨
    (r ≠ .cmd ∧ r ≠ .status ∧ s.busy = false ∧ writeRegister r v s = .next (s.storeReg r v)) := by
  unfold writeRegister
  cases hb : s.busy <;> cases r <;> simp

/-- With nothing scheduled the unit acts (R146). -/
theorem step_of_empty {s : State} (h : s.schedule = []) : step s = unitTurn s := by
  unfold step; rw [h]

/-- Otherwise the first turn of the schedule is taken (R13). -/
theorem step_of_turn {s : State} {t : Turn} {rest : List Turn} (h : s.schedule = t :: rest) :
    step s = takeTurn t (s.setSchedule rest) := by
  unfold step; rw [h]

theorem unitTurn_idle {s : State} (h : s.pending = none) : unitTurn s = .next s := by
  unfold unitTurn; rw [h]

theorem unitTurn_pending {s : State} {w : Word} (h : s.pending = some w) : unitTurn s = runPending w s := by
  unfold unitTurn; rw [h]

end Sys2Proof.Machine
end

