-- ==== Sys2Proof/Laws/Run.lean ====
section
/-! SUPPORT. How the final state of a run follows its steps (70_reset_and_hazards.md R147). -/

namespace Sys2Proof.Machine

@[simp] theorem Turn.isHost_host (x : Access) : (Turn.host x).isHost = true := rfl
@[simp] theorem Turn.isHost_unit : Turn.unit.isHost = false := rfl
@[simp] theorem Turn.isHost_powerOn : Turn.powerOn.isHost = false := rfl

theorem State.hostActs_of_turn {s : State} {t : Turn} {rest : List Turn} (h : s.schedule = t :: rest) :
    s.hostActs = t.isHost := by
  unfold State.hostActs; rw [h]

/-- A step that goes on hands the rest of the run to the next state. -/
theorem finalAfter_of_next {s t : State} (h : step s = .next t) (n : Nat) (quiet : Bool) :
    finalAfter (n + 1) quiet s = finalAfter n (if s.hostActs then t.pending.isNone else quiet) t := by
  simp only [finalAfter, h]

/-- A state that a run ends in has nothing scheduled and nothing pending (R147). -/
theorem finalAfter_settled {n : Nat} {quiet : Bool} {s t : State} (h : finalAfter n quiet s = some t) :
    t.schedule = [] ∧ t.pending = none := by
  induction n generalizing quiet s with
  | zero =>
    unfold finalAfter at h
    split at h
    · rename_i hs; cases h; exact ⟨hs.1, hs.2.1⟩
    · cases h
  | succ n ih =>
    unfold finalAfter at h
    split at h
    · exact ih h
    · cases h
    · cases h

end Sys2Proof.Machine
end

