-- ==== Sys2Proof/Tests/Slice0.lean ====
section
/-! SUPPORT. Tests with results from spec/ (95_test_vectors.md and the rules named), and a witness for the hypotheses
of each statement. -/

namespace Sys2Proof.Tests

set_option Elab.async false

open Sys2Proof.Machine

/-! ### Helpers -/

/-- Small parameters: S_M, S_N up to 4, streams up to 64 bits, windows at 0x40000000. -/
def small : Params := { smMax := 4, snMax := 4, lMax := 64, unitBase := 0x40000000, genEmitX0 := false }

def idle : State := State.resetOf small

/-- Bytes at consecutive addresses. -/
def bytesFrom : Nat → List Byte → Memory
  | _, [] => []
  | a, b :: bs => (a, b) :: bytesFrom (a + 1) bs

/-- The byte values of a memory, in address order. -/
def values (m : Memory) : List Nat := m.map fun c => c.2.toNat

/-- The 3 × 4 block 0 … 11 of 95 section 2.2. -/
def block34 : State :=
  { idle with geom := 0x00040003, buf := bytesFrom 0 [0, 1, 2, 3, 4, 5, 6, 7, 8, 9, 10, 11] }

/-- The 2 × 3 block 0 … 5 with stream S_A, weights (1, 4, 1) and CURSOR = 13, of V-A4. -/
def encrypt23 : State :=
  { idle with
    geom := 0x00030002, rounds := 1, weights := 0x0000000100040001, streamLen := 48, cursor := 13
    stream := bytesFrom 0 [0xA5, 0x3C, 0x0F, 0xF0, 0x96, 0x69], buf := bytesFrom 0 [0, 1, 2, 3, 4, 5] }

/-- V-A4 after its Encrypt, set back for the Decrypt. -/
def decrypt23 : State := { encrypt23 with mode := 1, buf := bytesFrom 0 [4, 0, 2, 3, 5, 1] }

/-- The key of V-G1 with L = 16. -/
def key01 : State :=
  { idle with keyX0 := 0x3FB999999999999A, keyMu := 0x400FFFCB923A29C7, streamLen := 16 }

/-- A GEN pending (V-C15). -/
def genPending : State := { key01 with pending := some 0x10 }

/-- Does the outcome go on to a state with this property? -/
def nextBy (o : Host.Outcome State Fault Refusal) (f : State → Bool) : Bool :=
  match o with
  | .next t => f t
  | .fault _ => false
  | .refused _ => false

def faults (o : Host.Outcome State Fault Refusal) : Bool :=
  match o with
  | .next _ => false
  | .fault .undefinedRead => true
  | .refused _ => false

/-- `wr NAME, v` as a turn. -/
def wr (r : Reg) (v : Word) : Turn := portWrite small r v

/-! ### WellFormed: one ill-formed term for each check (R70) -/

theorem test_wf_selector : (Instr.rotr 65536 0 false).wellFormed = false := by decide
theorem test_wf_shift : (Instr.rotc 0 (2 ^ 32) false).wellFormed = false := by decide
theorem test_wf_diagonal_low : (Instr.rotd (-32769) 0 false).wellFormed = false := by decide
theorem test_wf_diagonal_high : (Instr.rotd 32768 0 false).wellFormed = false := by decide
theorem test_wf_diagonal_shift : (Instr.rotd 0 (2 ^ 32) false).wellFormed = false := by decide
theorem test_wf_limits : (Instr.rotd (-32768) (2 ^ 32 - 1) true).wellFormed = true := by decide

/-! ### Decoding: words written out bit by bit from R62 and R64, field by field P SEL 0000000 d OP -/

theorem test_decode_nop : decode (0b0#32 ++ 0b0#16 ++ 0b0000000#7 ++ 0b0#1 ++ 0b00000000#8) = .command .nop := by decide
theorem test_decode_srst :
    decode (0b11#32 ++ 0b101#16 ++ 0b1111111#7 ++ 0b1#1 ++ 0b00000001#8) = .command .srst := by decide
theorem test_decode_gen : decode (0b0#32 ++ 0b0#16 ++ 0b0000000#7 ++ 0b0#1 ++ 0b00010000#8) = .command .gen := by decide
theorem test_decode_rotr :
    decode (0b110#32 ++ 0b1#16 ++ 0b0000000#7 ++ 0b1#1 ++ 0b00100000#8) = .command (.rotr 1 6 true) := by decide
theorem test_decode_rotc :
    decode (0b10#32 ++ 0b11#16 ++ 0b0000000#7 ++ 0b0#1 ++ 0b00100001#8) = .command (.rotc 3 2 false) := by decide
theorem test_decode_rota :
    decode (0b111#32 ++ 0b101#16 ++ 0b0000000#7 ++ 0b0#1 ++ 0b00100010#8) = .command (.rota 5 7 false) := by decide
theorem test_decode_rotd :
    decode (0b1001#32 ++ 0b1111111111111101#16 ++ 0b0000000#7 ++ 0b1#1 ++ 0b00100011#8) =
      .command (.rotd (-3) 9 true) := by decide
theorem test_decode_apply :
    decode (0b0#32 ++ 0b0#16 ++ 0b0000000#7 ++ 0b0#1 ++ 0b00110000#8) = .command .apply := by decide
theorem test_decode_reserved_z : decode 0x0000000000000130 = .reservedBits := by decide
theorem test_decode_reserved_r : decode 0x0000000100000220 = .reservedBits := by decide
theorem test_decode_illegal : decode 0xFFFFFFFFFFFFFF02 = .illegalOpcode := by decide
theorem test_table_word : decodeTableWord 8 0x01 = some .srst := by decide

/-! ### One step of each command, from the vectors -/

/-- V-C1, and NOP placed where the next step takes its command. -/
theorem test_nop : nextBy (submit 0 block34) (· == block34) = true := by decide +kernel

/-- V-C9: SRST from an error state gives the reset state. -/
theorem test_srst : nextBy (submit 0x1 { block34 with err := true, errCode := 0x16 }) (· == idle) = true := by
  decide +kernel

/-- V-G1 (first two bytes), R83's example. -/
theorem test_gen : nextBy (exec .gen key01) (fun t => values t.stream == [0x5C, 0xEB]) = true := by decide +kernel

/-- V-G4: x1 = 1.0 gives 0x00 and then zeros; with GEN_EMIT_X0 = 1 the first byte is 0x80. -/
theorem test_gen_edge :
    nextBy (exec .gen { key01 with keyX0 := 0x3FE0000000000000, keyMu := 0x4010000000000000, streamLen := 17,
                                   params := { small with genEmitX0 := true } })
      (fun t => values t.stream == [0x80, 0x00, 0x00]) = true := by decide +kernel

/-- V-R2. -/
theorem test_rotr : nextBy (exec (.rotr 1 1 true) block34)
    (fun t => values t.buf == [0, 1, 2, 3, 7, 4, 5, 6, 8, 9, 10, 11]) = true := by decide +kernel

/-- V-R25: the largest shift. -/
theorem test_rotr_shift : nextBy (exec (.rotr 2 4294967295 false) block34)
    (fun t => values t.buf == [0, 1, 2, 3, 4, 5, 6, 7, 11, 8, 9, 10]) = true := by decide +kernel

/-- V-R8. -/
theorem test_rotc : nextBy (exec (.rotc 3 1 true) block34)
    (fun t => values t.buf == [0, 1, 2, 11, 4, 5, 6, 3, 8, 9, 10, 7]) = true := by decide +kernel

/-- V-R13: a model with anti-diagonals in increasing i fails here (conflict C1). -/
theorem test_rota : nextBy (exec (.rota 2 1 false) block34)
    (fun t => values t.buf == [0, 1, 8, 3, 4, 2, 6, 7, 5, 9, 10, 11]) = true := by decide +kernel

/-- V-R16. -/
theorem test_rota_pair : nextBy (exec (.rota 4 1 true) block34)
    (fun t => values t.buf == [0, 1, 2, 3, 4, 5, 6, 10, 8, 9, 7, 11]) = true := by decide +kernel

/-- V-R18: SEL = 0xFFFF is l = −1. -/
theorem test_rotd : nextBy (exec (.rotd (-1) 1 false) block34)
    (fun t => values t.buf == [0, 6, 2, 3, 4, 5, 11, 7, 8, 9, 10, 1]) = true := by decide +kernel

/-- V-R30: l = S_M is out of range. -/
theorem test_rotd_selector : nextBy (submit 0x0000000100030023 block34)
    (fun t => t.statusWord == 0x1702 && t.buf == block34.buf) = true := by decide +kernel

/-- V-A4, Encrypt. -/
theorem test_apply_encrypt : nextBy (exec .apply encrypt23)
    (fun t => values t.buf == [4, 0, 2, 3, 5, 1] && t.cursor == 26) = true := by decide +kernel

/-- V-A4, Decrypt at the same C0. -/
theorem test_apply_decrypt : nextBy (exec .apply decrypt23)
    (fun t => values t.buf == [0, 1, 2, 3, 4, 5] && t.cursor == 0) = true := by decide +kernel

/-! ### The port and the step -/

/-- V-C12: RAZ/WI bits of GEOM. -/
theorem test_write_geom : nextBy (step { idle with schedule := [wr .geom 0xFFFFFFFF00030002] })
    (fun t => t.geom == 0x0000000000030002) = true := by decide +kernel

/-- V-C15: a write while a GEN is pending. -/
theorem test_busy_write : nextBy (step { genPending with schedule := [wr .geom 5] })
    (fun t => t.statusWord == 0x0303 && t.geom == 0) = true := by decide +kernel

/-- V-C5: ERR = 1 refuses GEN. -/
theorem test_refused : nextBy (submit 0x10 { key01 with err := true, errCode := 0x01 })
    (fun t => t.statusWord == 0x0102 && t.pending == none) = true := by decide +kernel

/-- V-B2: an undefined byte. -/
theorem test_undefined_read : faults (step { idle with schedule := [portReadBuf small 0] }) = true := by
  decide +kernel

/-- R53: the unit's step completes the pending GEN; then BUSY = 0. -/
theorem test_completion : nextBy (step genPending)
    (fun t => t.statusWord == 0 && values t.stream == [0x5C, 0xEB]) = true := by decide +kernel

/-- V-B4 through the placed word: ROTR at the reset values raises ZERO_BLOCK. -/
theorem test_placed_word : nextBy (step (State.reset.withFetchWord 64 0x20))
    (fun t => t.statusWord == 0x1002) = true := by decide +kernel

/-- G5: 3.9999 rounds to 0x400FFFCB923A29C7 and 0.1 to 0x3FB999999999999A. -/
theorem test_key_literals : bits64 false 39999 4 = 0x400FFFCB923A29C7 ∧ bits64 false 1 1 = 0x3FB999999999999A := by
  decide +kernel

/-! ### Witnesses: a state and operands that meet the hypotheses of each statement -/

theorem witness_DecodeEncodeIsIdentity :
    (Instr.rotr 65535 (2 ^ 32 - 1) true).wellFormed = true ∧ (Instr.rotd (-32768) 0 false).wellFormed = true ∧
    (Instr.rotd 32767 0 false).wellFormed = true := by decide

theorem witness_DecodedWordIsItsEncoding :
    decode 0xFFFFFFFF80000123 = .command (.rotd (-32768) 4294967295 true) ∧
    Instr.rotd (-32768) 4294967295 true ≠ .srst := by decide

theorem witness_AssemblerWordsAreEncodings :
    (Instr.rotd (-1) 1 false).wellFormed = true ∧ (Instr.rota 65535 1 true).wellFormed = true := by decide

/-- O6: an accepted word, a refused one, and one that raises an error. -/
theorem witness_AcceptanceHasOneEffect :
    (0x10 : Word).extractLsb' 0 8 ≠ 0x01 ∧ nextBy (submit 0x10 key01) (·.pending == some 0x10) = true ∧
    nextBy (submit 0x10 { key01 with err := true }) (· == { key01 with err := true }) = true ∧
    nextBy (submit 0x10 idle) (fun t => t.err && t.errCode == 0x15) = true := by decide +kernel

/-- O7: a word for each clause (refused, busy, illegal, reserved, a failing check, NOP, accepted). -/
theorem witness_AcceptanceOrder :
    (0x10 : Word).extractLsb' 0 8 ≠ 0x01 ∧ { key01 with err := true }.err = true ∧
    genPending.err = false ∧ genPending.pending ≠ none ∧
    key01.err = false ∧ key01.pending = none ∧ decode 0x02 = .illegalOpcode ∧ decode 0x110 = .reservedBits ∧
    decode 0x10 = .command .gen ∧ ¬CommandOk .gen idle ∧ decode 0x00 = .command .nop ∧ CommandOk .gen key01 := by
  refine ⟨by decide, rfl, rfl, by decide, rfl, rfl, by decide, by decide, by decide, ?_, by decide, ?_⟩
  · show ¬idle.GenReady
    decide +kernel
  · show key01.GenReady
    decide +kernel

/-- R123 case 7 for APPLY and a rotation: the word is pending and nothing else has changed. -/
theorem test_accept_apply : nextBy (submit 0x30 encrypt23) (· == { encrypt23 with pending := some 0x30 }) = true := by
  decide +kernel

theorem test_accept_rotr :
    nextBy (submit 0x0000000600010120 block34) (· == { block34 with pending := some 0x0000000600010120 }) = true := by
  decide +kernel

theorem witness_SrstIsAlwaysTaken : (0xFFFFFFFFFFFFFF01 : Word).extractLsb' 0 8 = 0x01 := by decide

theorem witness_NopChangesNothing : idle.err = false ∧ idle.pending = none := by decide

theorem witness_StepRunsThePendingCommand :
    genPending.pending = some 0x10 ∧ decode 0x10 = .command .gen ∧ genPending.schedule = [] ∧
    { genPending with schedule := [.unit] }.schedule = .unit :: [] := by decide

theorem witness_PlacedWordIsRunNext :
    decodeTableWord 64 0x30 = some .apply ∧ decodeTableWord 64 0x00000001FFFF0023 = some (.rotd (-1) 1 false) := by
  decide

theorem witness_StepTakesTheFirstTurn :
    { idle with schedule := [wr .mode 1] }.schedule = wr .mode 1 :: [] ∧
    { idle with schedule := [.powerOn] }.schedule = .powerOn :: [] ∧
    { idle with schedule := [.unit] }.schedule = .unit :: [] ∧ idle.schedule = [] ∧ idle.pending = none := by decide

/-- O14: an accepted command, and one whose check fails. -/
theorem witness_AcceptThenCompleteIsExec :
    { key01 with schedule := [wr .cmd 0x10] }.schedule = wr .cmd 0x10 :: [] ∧
    resolve small 0x40000018 .b64 = some (.reg .cmd) ∧ key01.err = false ∧ key01.pending = none ∧
    decode 0x10 = .command .gen ∧ CommandOk .gen key01 ∧ ¬CommandOk .gen idle := by
  refine ⟨rfl, by decide +kernel, rfl, rfl, by decide, ?_, ?_⟩
  · show key01.GenReady
    decide +kernel
  · show ¬idle.GenReady
    decide +kernel

theorem witness_PendingCompletesWhenTheScheduleEnds :
    Host.Core.run Sys2Proof.core (idle.schedule.length + 1) idle = .next idle := rfl

theorem witness_MalformedAccessesAreRefused :
    idle.params.legal = true ∧ resolve idle.params 0x40000060 .b64 = none ∧
    resolve idle.params 0x40000050 .b64 = some (.reg .mode) := by decide +kernel

/-- O16, O17: the edges of the windows. -/
theorem witness_AddressMapIsTheThreeWindows :
    small.legal = true ∧ resolve small 0x40000058 .b64 = some (.reg .cursor) ∧
    resolve small 0x40000060 .b64 = none ∧ resolve small 0x40000018 .b32 = none ∧
    resolve small 0x4000001C .b64 = none ∧
    resolve small 0x4010000F .b8 = some (.buf 15) ∧ resolve small 0x40100010 .b8 = none ∧
    resolve small 0x41000007 .b8 = some (.stream 7) ∧ resolve small 0x41000008 .b8 = none ∧
    resolve small 0x3FFFFFFF .b8 = none := by decide +kernel

/-- O18, O19: an access for every register that is written. -/
theorem witness_RegisterWriteStoresUnreservedBits :
    idle.pending = none ∧ resolve small 0x40000000 .b64 = some (.reg .id) ∧
    resolve small 0x40000008 .b64 = some (.reg .cap) ∧ resolve small 0x40000010 .b64 = some (.reg .status) ∧
    resolve small 0x40000020 .b64 = some (.reg .keyX0) ∧ resolve small 0x40000028 .b64 = some (.reg .keyMu) ∧
    resolve small 0x40000030 .b64 = some (.reg .streamLen) ∧ resolve small 0x40000038 .b64 = some (.reg .geom) ∧
    resolve small 0x40000040 .b64 = some (.reg .rounds) ∧ resolve small 0x40000048 .b64 = some (.reg .weights) ∧
    resolve small 0x40000050 .b64 = some (.reg .mode) ∧ resolve small 0x40000058 .b64 = some (.reg .cursor) := by
  decide +kernel

/-- O19: both values of bit 1, on a busy unit with an error. -/
theorem witness_StatusWriteClearsOnlyTheError :
    resolve small 0x40000010 .b64 = some (.reg .status) ∧
    nextBy (hostAccess { addr := 0x40000010, width := .b64, op := .write 2 }
      { genPending with err := true, errCode := 3 }) (· == genPending) = true ∧
    nextBy (hostAccess { addr := 0x40000010, width := .b64, op := .write 0xFD }
      { genPending with err := true, errCode := 3 }) (· == { genPending with err := true, errCode := 3 }) = true := by
  decide +kernel

/-- O21: the first and the last byte of each memory; of the bus value only bits 7:0 are stored. -/
theorem witness_ByteWriteDefinesOneByte :
    block34.pending = none ∧ resolve small 0x40100000 .b8 = some (.buf 0) ∧
    resolve small 0x4010000F .b8 = some (.buf 15) ∧ resolve small 0x41000000 .b8 = some (.stream 0) ∧
    resolve small 0x41000007 .b8 = some (.stream 7) ∧
    nextBy (hostAccess { addr := 0x41000007, width := .b8, op := .write 0x1FF } idle)
      (· == { idle with stream := [(7, 0xFF)] }) = true := by decide +kernel

/-- O22: the kinds of target while BUSY = 1, ID and CAP among them, with ERR = 0 and ERR = 1. -/
theorem witness_BusyWritesAreDropped :
    genPending.pending ≠ none ∧ resolve small 0x40000010 .b64 = some (.reg .status) ∧
    resolve small 0x40000018 .b64 = some (.reg .cmd) ∧ (0x01 : Word).extractLsb' 0 8 = 0x01 ∧
    resolve small 0x40000000 .b64 = some (.reg .id) ∧ resolve small 0x40000008 .b64 = some (.reg .cap) ∧
    resolve small 0x40000038 .b64 = some (.reg .geom) ∧ resolve small 0x40100000 .b8 = some (.buf 0) ∧
    genPending.err = false ∧ { genPending with err := true }.err = true := by decide +kernel

/-- O23: a register, a defined byte, an undefined byte, a byte while BUSY = 1. -/
theorem witness_ReadsAnswerAndChangeNothingElse :
    resolve small 0x40000010 .b64 = some (.reg .status) ∧ resolve small 0x4010000B .b8 = some (.buf 11) ∧
    resolve small 0x41000000 .b8 = some (.stream 0) ∧ block34.pending = none ∧
    block34.buf.read 11 = some 11 ∧ block34.buf.read 12 = none ∧ genPending.pending ≠ none := by decide +kernel

/-- The invariant holds of a programmed unit with a pending command, an error recorded, and both memories in use. -/
theorem witness_Inv : { encrypt23 with pending := some 0x30, err := true, errCode := 0x03 }.Inv where
  params := by decide +kernel
  bufWf := by decide +kernel
  bufWithin := by decide +kernel
  streamWf := by decide +kernel
  streamWithin := by decide +kernel
  errorOk := by decide +kernel
  reservedZero := by decide +kernel
  pendingOk := ⟨rfl, by decide +kernel⟩

theorem idle_inv : idle.Inv where
  params := by decide +kernel
  bufWf := rfl
  bufWithin := rfl
  streamWf := rfl
  streamWithin := rfl
  errorOk := by decide
  reservedZero := by decide
  pendingOk := trivial

/-- An idle unit with an error, about to take the turns `l`. -/
def withError (l : List Turn) : State := { idle with err := true, errCode := 0x01, schedule := l }

theorem withError_inv (l : List Turn) : (withError l).Inv where
  params := show small.legal = true by decide +kernel
  bufWf := rfl
  bufWithin := rfl
  streamWf := rfl
  streamWithin := rfl
  errorOk := show (0x01 : Byte) ∈ errorCodes by decide
  reservedZero := show idle.ReservedZero by decide
  pendingOk := trivial

/-- O26: ERR kept, and ERR cleared by each of the three. -/
theorem witness_OnlyThreeThingsClearTheError :
    ((withError []).Inv ∧ step (withError []) = .next (withError []) ∧ (withError []).err = true) ∧
    ((withError [.powerOn]).Inv ∧ step (withError [.powerOn]) = .next idle) ∧
    ((withError [wr .status 2]).Inv ∧ step (withError [wr .status 2]) = .next idle) ∧
    ((withError [wr .cmd 1]).Inv ∧ step (withError [wr .cmd 1]) = .next idle) ∧ idle.err = false :=
  ⟨⟨withError_inv _, rfl, rfl⟩, ⟨withError_inv _, rfl⟩, ⟨withError_inv _, rfl⟩, ⟨withError_inv _, rfl⟩, rfl⟩

/-- The state after APPLY of V-A4, reached by the unit's step. -/
def encrypted23 : State := { encrypt23 with buf := bytesFrom 0 [4, 0, 2, 3, 5, 1], cursor := 26 }

theorem applyPending_inv : { encrypt23 with pending := some 0x30 }.Inv where
  params := by decide +kernel
  bufWf := by decide +kernel
  bufWithin := by decide +kernel
  streamWf := by decide +kernel
  streamWithin := by decide +kernel
  errorOk := by decide +kernel
  reservedZero := by decide +kernel
  pendingOk := ⟨rfl, by decide +kernel⟩

/-- O27: an APPLY moves the cursor from 13 to 26, a host write to 7, a power-on reset to 0. -/
theorem witness_OnlyHostApplyAndResetMoveTheCursor :
    step { encrypt23 with pending := some 0x30 } = .next encrypted23 ∧ encrypted23.cursor ≠ encrypt23.cursor ∧
    step { encrypt23 with schedule := [wr .cursor 7] } = .next { encrypt23 with cursor := 7 } ∧
    step { encrypt23 with schedule := [.powerOn] } = .next idle ∧
    step { encrypt23 with schedule := [wr .cmd 1] } = .next idle := by
  refine ⟨rfl, by decide +kernel, rfl, rfl, rfl⟩

theorem witness_OperandsAreFrozenWhileBusy :
    genPending.pending ≠ none ∧
    hostAccess { addr := 0x40000038, width := .b64, op := .write 5 } genPending =
      .next { genPending with err := true, errCode := 0x03 } ∧
    (∃ t, hostAccess { addr := 0x40000018, width := .b64, op := .write 1 } genPending = .next t) :=
  ⟨by decide, rfl, _, rfl⟩

theorem witness_InvariantHoldsAtReset : small.legal = true := by decide +kernel

theorem witness_StepKeepsTheInvariant :
    { encrypt23 with pending := some 0x30 }.Inv ∧ step { encrypt23 with pending := some 0x30 } = .next encrypted23 :=
  ⟨applyPending_inv, rfl⟩

/-- O31: a one-cell unit with every byte defined. -/
def tiny : State :=
  { State.resetOf { smMax := 1, snMax := 1, lMax := 8, unitBase := 0, genEmitX0 := true } with
    buf := [(0, 7)], stream := [(0, 9)] }

theorem witness_FullyDefinedUnitNeverFaults :
    tiny.Inv ∧ (∀ a, a < tiny.params.bufBytes → (tiny.buf.read a).isSome = true) ∧
    (∀ a, a < tiny.params.streamBytes → (tiny.stream.read a).isSome = true) := by
  refine ⟨⟨?_, rfl, ?_, rfl, ?_, ?_, ?_, trivial⟩, ?_, ?_⟩ <;> decide +kernel

theorem witness_StepRefusesOnlyMalformedAccesses :
    step { idle with schedule := [.host { addr := 0, width := .b8, op := .read }] } = .refused .malformedAccess := rfl

theorem witness_ParametersNeverChange :
    step { idle with schedule := [wr .mode 1] } = .next { idle with mode := 1 } := rfl

/-- O34: a product that needs rounding, and a tie. -/
theorem witness_FlMulRoundsToNearestEven :
    fBits 0x3FB999999999999A < infBits ∧ fBits 0x400FFFCB923A29C7 < infBits ∧ fBits 0 < infBits ∧
    fBits (flMul 0x3FB999999999999A 0x400FFFCB923A29C7) < infBits ∧
    fBits (flMul 0x3FF0000000000001 0x3FF8000000000000) < infBits := by decide +kernel

theorem witness_FlSubRoundsToNearestEven :
    fBits oneWord < infBits ∧ fBits 0x3FB999999999999A < infBits ∧ fBits 0 < infBits ∧
    fBits (flSub oneWord 0x3FB999999999999A) < infBits ∧ fVal 0x8000000000000000 = fVal 0 := by decide +kernel

theorem witness_ValidKeyIteratesStayInUnit :
    validKey 0x0000000000000001 0x4010000000000000 = true ∧ validKey 0x3FEFFFFFFFFFFFFF 0x0000000000000001 = true ∧
    key01.GenReady := by
  decide +kernel

theorem witness_GenWritesTheIterates :
    key01.GenReady ∧ (key01.len + 7) / 8 = 2 ∧ outsideUnit (key01.iterate 0) = false ∧
    outsideUnit (key01.iterate 1) = false := by decide +kernel

/-- O38: an iterate outside [0, 1] exists (of no valid key that is known). -/
theorem witness_outside_unit : outsideUnit 0x3FF0000000000001 = true ∧ outsideUnit 0x8000000000000000 = false := by
  decide +kernel

/-- O39: each check at its boundary, and an idle unit for the CMD write. -/
theorem witness_GenChecksInOrder :
    idle.len = 0 ∧ small.lMax < { key01 with streamLen := 65 }.len ∧
    1 ≤ { key01 with streamLen := 64 }.len ∧ { key01 with streamLen := 64 }.len ≤ small.lMax ∧
    0x3FEFFFFFFFFFFFFF < (0x3FF0000000000000 : Word).toNat ∧
    0x4010000000000000 < (0x4010000000000001 : Word).toNat ∧
    decode 0x10 = .command .gen ∧ key01.err = false ∧ key01.pending = none := by decide +kernel

theorem witness_GenIsDeterministic :
    key01.GenReady ∧ { key01 with buf := [(3, 4)], cursor := 9 }.GenReady ∧ key01.err = false := by decide +kernel

theorem witness_GenWorkedExample :
    key01.keyX0 = 0x3FB999999999999A ∧ key01.keyMu = 0x400FFFCB923A29C7 ∧ key01.streamLen = 16 ∧
    key01.params.genEmitX0 = false ∧ 16 ≤ key01.params.lMax := by decide +kernel

/-- O42: the extreme lines of a 3 × 4 block. -/
theorem witness_LinesAreTheirCellSets :
    antiDiagLine 3 4 2 = [(2, 0), (1, 1), (0, 2)] ∧ antiDiagLine 3 4 5 = [(2, 3)] ∧
    diagLine 3 4 (-3) = [(0, 3)] ∧ diagLine 3 4 (-1) = [(0, 1), (1, 2), (2, 3)] ∧
    rowLine 4 2 = [(2, 0), (2, 1), (2, 2), (2, 3)] ∧ colLine 3 3 = [(0, 3), (1, 3), (2, 3)] := by decide

theorem witness_RotrRotatesItsRow :
    block34.GeomOk ∧ 2 < block34.sm ∧ LineDefined block34 block34.sn (rowCell 2) := by decide +kernel

theorem witness_RotcRotatesItsColumn :
    block34.GeomOk ∧ 3 < block34.sn ∧ LineDefined block34 block34.sm (colCell 3) := by decide +kernel

theorem witness_RotaRotatesItsAntiDiagonal :
    block34.GeomOk ∧ 5 ≤ block34.sm + block34.sn - 2 ∧
    LineDefined block34 (antiDiagLen block34.sm block34.sn 5) (antiDiagCell block34.sm 5) ∧
    LineDefined block34 (antiDiagLen block34.sm block34.sn 2) (antiDiagCell block34.sm 2) ∧
    antiDiagLen block34.sm block34.sn 2 = 3 := by decide +kernel

theorem witness_RotdRotatesItsDiagonal :
    block34.GeomOk ∧ 1 - (block34.sn : Int) ≤ -3 ∧ (2 : Int) ≤ (block34.sm : Int) - 1 ∧
    LineDefined block34 (diagLen block34.sm block34.sn (-3)) (diagCell (-3)) ∧
    LineDefined block34 (diagLen block34.sm block34.sn 2) (diagCell 2) ∧
    diagLen block34.sm block34.sn (-1) = 3 := by decide +kernel

/-- O47: each check, with selectors one past the range. -/
theorem witness_RotationsCheckInOrder :
    isRotation (.rotr 3 1 false) = true ∧ idle.sm = 0 ∧
    small.smMax < { block34 with geom := 0x00040005 }.sm ∧ 1 ≤ { block34 with geom := 0x00040005 }.sn ∧
    block34.GeomOk ∧ ¬3 < block34.sm ∧ ¬4 < block34.sn ∧ ¬6 + 2 ≤ block34.sm + block34.sn ∧
    ¬1 - (block34.sn : Int) ≤ -4 ∧ ¬(3 : Int) ≤ (block34.sm : Int) - 1 := by decide +kernel

/-- O48: a line with an undefined byte, and one without. -/
theorem witness_RotationFaultsExactlyOnUndefinedLine :
    block34.GeomOk ∧ { block34 with buf := [(0, 0)] }.buf.read (0 * 4 + 1) = none ∧
    faults (exec (.rotr 0 0 false) { block34 with buf := [(0, 0)] }) = true ∧
    nextBy (exec (.rotr 0 0 false) block34) (fun _ => true) = true := by decide +kernel

/-- O49: a line of defined bytes in a block with undefined ones. -/
theorem witness_RotationUndoneByItsFlip :
    isRotation (.rotd (-1) 7 true) = true ∧ { block34 with buf := [(1, 4), (6, 5), (11, 6)] }.GeomOk ∧
    SelectorOk (.rotd (-1) 7 true) { block34 with buf := [(1, 4), (6, 5), (11, 6)] } ∧
    LineReadable (.rotd (-1) 7 true) { block34 with buf := [(1, 4), (6, 5), (11, 6)] } ∧
    { block34 with buf := [(1, 4), (6, 5), (11, 6)] }.buf.wf = true := by
  refine ⟨rfl, by decide +kernel, ?_, ?_, by decide +kernel⟩
  · show 1 - (block34.sn : Int) ≤ -1 ∧ (-1 : Int) ≤ (block34.sm : Int) - 1
    decide +kernel
  · show LineDefined { block34 with buf := [(1, 4), (6, 5), (11, 6)] } (diagLen 3 4 (-1)) (diagCell (-1))
    decide +kernel

theorem witness_DifferentLinesCommute :
    differentLines (.rota 2 1 true) (.rota 3 4 false) = true ∧ SelectorOk (.rota 2 1 true) block34 ∧
    SelectorOk (.rota 3 4 false) block34 ∧ block34.GeomOk ∧ LineReadable (.rota 2 1 true) block34 ∧
    LineReadable (.rota 3 4 false) block34 ∧ block34.buf.wf = true := by
  refine ⟨rfl, ?_, ?_, by decide +kernel, ?_, ?_, by decide +kernel⟩
  · show 2 + 2 ≤ block34.sm + block34.sn
    decide +kernel
  · show 3 + 2 ≤ block34.sm + block34.sn
    decide +kernel
  · show LineDefined block34 (antiDiagLen block34.sm block34.sn 2) (antiDiagCell block34.sm 2)
    decide +kernel
  · show LineDefined block34 (antiDiagLen block34.sm block34.sn 3) (antiDiagCell block34.sm 3)
    decide +kernel

/-- O51: each failing check with the earlier ones passing; the cursor clauses at their boundaries (V-A23, V-A25). -/
theorem witness_ApplyChecksInOrder :
    idle.sm = 0 ∧ small.snMax < { encrypt23 with geom := 0x00050002 }.sn ∧ encrypt23.GeomOk ∧
    { encrypt23 with rounds := 0 }.nIter = 0 ∧ { encrypt23 with weights := 0x10001 }.gamma = 0 ∧
    { encrypt23 with streamLen := 0 }.len = 0 ∧ small.lMax < { encrypt23 with streamLen := 65 }.len ∧
    2 ^ 64 - 1 < (0xFFFFFFFFFFFFFFF3 : Word).toNat + encrypt23.cc ∧
    { decrypt23 with cursor := 12 }.decrypt = true ∧ { decrypt23 with cursor := 12 }.cursor.toNat < decrypt23.cc ∧
    decode 0x30 = .command .apply ∧ encrypt23.err = false ∧ encrypt23.pending = none := by
  decide +kernel

/-- O52: also with the stream defined at the consumed positions 13 to 25 alone. -/
theorem witness_ApplyCompletes :
    encrypt23.ApplyReady ∧ encrypt23.decrypt = false ∧ decrypt23.ApplyReady ∧ decrypt23.decrypt = true ∧
    { encrypt23 with stream := [(1, 0x3C), (2, 0x0F), (3, 0xF0)] }.ApplyReady := by
  decide +kernel

/-- O53: the thirteen commands of the trace of V-A3 and V-A4. -/
theorem witness_ApplyIsItsRotationCommands :
    encrypt23.ApplyReady ∧ encrypt23.applyCommands.length = 13 ∧
    nextBy (execAll encrypt23.applyCommands encrypt23) (fun u => values u.buf == [4, 0, 2, 3, 5, 1]) = true := by
  decide +kernel

theorem witness_DecryptUndoesEncrypt :
    encrypt23.ApplyReady ∧ encrypt23.decrypt = false ∧ exec .apply encrypt23 = .next encrypted23 ∧
    decrypt23.decrypt = true ∧ decrypt23.params = encrypt23.params ∧ decrypt23.sm = encrypt23.sm ∧
    decrypt23.sn = encrypt23.sn ∧ decrypt23.nIter = encrypt23.nIter ∧ decrypt23.alpha = encrypt23.alpha ∧
    decrypt23.beta = encrypt23.beta ∧ decrypt23.gamma = encrypt23.gamma ∧ decrypt23.len = encrypt23.len ∧
    decrypt23.cursor = encrypt23.cursor ∧ encrypt23.cc ≤ encrypt23.cursor.toNat ∧
    decrypt23.stream = encrypt23.stream ∧ decrypt23.buf = encrypted23.buf := by
  refine ⟨by decide +kernel, by decide +kernel, rfl, by decide +kernel, rfl, rfl, rfl, rfl, rfl, rfl, rfl, rfl, rfl,
    by decide +kernel, rfl, rfl⟩

/-- O55: a 2 × 2 block with an odd shift. -/
theorem witness_TwoByTwoBlockIsUnchanged :
    { encrypt23 with geom := 0x00020002 }.ApplyReady ∧ { encrypt23 with geom := 0x00020002 }.sm = 2 ∧
    { encrypt23 with geom := 0x00020002 }.sn = 2 ∧ encrypt23.buf.wf = true ∧ encrypt23.alpha % 2 = 1 := by
  decide +kernel

theorem witness_RoundPositionsAreConsecutive : 1 ≤ encrypt23.engine.sm ∧ 1 ≤ decrypt23.engine.sn := by decide +kernel

/-- O57: checks pass with a block byte undefined, with a stream byte undefined, and with all defined. -/
theorem witness_ApplyFaultsExactlyOnUndefined :
    { encrypt23 with buf := [] }.ApplyChecksPass ∧ { encrypt23 with stream := [] }.ApplyChecksPass ∧
    faults (exec .apply { encrypt23 with buf := [] }) = true ∧
    faults (exec .apply { encrypt23 with stream := [] }) = true ∧
    streamBit { encrypt23 with stream := [] }.stream 48 13 = none := by decide +kernel

theorem witness_CallCostIsBounded : small.legal = true ∧ encrypt23.GeomOk ∧ encrypt23.engine.roundCost = 13 := by
  decide +kernel

/-- `gen` and then `poll` with one wait; `gen` alone; and P6 of 95_test_vectors.md, whose write is made while GEN is
pending. -/
def polledGen : State := { key01 with schedule := [wr .cmd 0x10, portRead small .status, .unit, portRead small .status] }

def unpolledGen : State := { key01 with schedule := [wr .cmd 0x10, .unit] }

theorem test_final_state : (polledGen.finalState).isSome = true ∧ unpolledGen.finalState = none ∧
    { idle with schedule := [portReadBuf small 0] }.finalState = none ∧ idle.finalState = some idle := by
  decide +kernel

/-- O59: a last access after which nothing is pending, and one after which GEN is. -/
theorem witness_FinalStateNeedsAnIdleUnit :
    polledGen.schedule = [wr .cmd 0x10, portRead small .status, .unit] ++ portRead small .status :: [] ∧
    unpolledGen.schedule = [] ++ wr .cmd 0x10 :: [.unit] ∧ Turn.unit.isHost = false ∧
    nextBy (Host.Core.run Sys2Proof.core 1 unpolledGen) (·.pending != none) = true ∧
    nextBy (Host.Core.run Sys2Proof.core 2 unpolledGen) (·.pending == none) = true ∧
    nextBy (Host.Core.run Sys2Proof.core 4 polledGen) (·.pending == none) = true := by
  refine ⟨rfl, rfl, rfl, ?_, ?_, ?_⟩ <;> decide +kernel

/-- O60: each bound of R70 at its edge, and a short program. -/
theorem witness_AssembledLinesReachTheirTargets :
    small.legal = true ∧ assemble small (.geom 65536 1) = none ∧ (assemble small (.geom 65535 65535)).isSome = true ∧
    assemble small (.rounds 65536) = none ∧ assemble small (.wts 1 65536 1) = none ∧
    assemble small (.slen 4294967296) = none ∧ assemble small (.wrb 16 0) = none ∧ assemble small (.rds 8) = none ∧
    assemble small (.wrb 0xF00000 0) = none ∧
    (assembleProgram small [.geom 3 4, .wrblk 0 [1, 2], .command (.rotr 1 1 true), .poll 1]).isSome = true := by
  decide +kernel

end Sys2Proof.Tests
end

section
/-! PROOFS. What no transition changes (00_scope.md R6): the parameters, and the turns still to come (O33). -/

namespace Sys2Proof.Machine

/-- If the outcome goes on, its state has the parameters and the schedule of s. -/
def KeepsParamsAndSchedule (s : State) : Host.Outcome State Fault Refusal → Prop
  | .next t => t.params = s.params ∧ t.schedule = s.schedule
  | .fault _ => True
  | .refused _ => True

@[simp] theorem keepsParamsAndSchedule_next (s t : State) :
    KeepsParamsAndSchedule s (.next t) ↔ t.params = s.params ∧ t.schedule = s.schedule := Iff.rfl

@[simp] theorem keepsParamsAndSchedule_fault (s : State) (f : Fault) : KeepsParamsAndSchedule s (.fault f) := trivial

@[simp] theorem keepsParamsAndSchedule_refused (s : State) (r : Refusal) : KeepsParamsAndSchedule s (.refused r) :=
  trivial

@[simp] theorem State.storeReg_params (s : State) (r : Reg) (v : Word) : (s.storeReg r v).params = s.params := by
  cases r <;> rfl

@[simp] theorem State.storeReg_schedule (s : State) (r : Reg) (v : Word) :
    (s.storeReg r v).schedule = s.schedule := by
  cases r <;> rfl

/-! ### Commands -/

theorem rotateCommand_keepsParamsAndSchedule (s : State) (selOk : Bool) (line : List Cell) (p : Nat) (d : Bool) :
    KeepsParamsAndSchedule s (rotateCommand s selOk line p d) := by
  obtain ⟨c, -, h⟩ | ⟨-, -, h⟩ | ⟨-, m, -, h⟩ := rotateCommand_cases s selOk line p d <;> simp [h]

theorem execApply_keepsParamsAndSchedule (s : State) : KeepsParamsAndSchedule s (execApply s) := by
  obtain ⟨c, -, h⟩ | ⟨-, -, h⟩ | ⟨-, m, -, h⟩ := execApply_cases s <;> simp [h]

theorem execGen_keepsParamsAndSchedule (s : State) : KeepsParamsAndSchedule s (execGen s) := by
  obtain ⟨c, -, h⟩ | ⟨-, -, h⟩ | ⟨-, -, h⟩ := execGen_cases s <;> simp [h]

theorem exec_keepsParamsAndSchedule (i : Instr) (s : State) : KeepsParamsAndSchedule s (exec i s) := by
  cases i with
  | nop => exact ⟨rfl, rfl⟩
  | srst => exact ⟨rfl, rfl⟩
  | gen => exact execGen_keepsParamsAndSchedule s
  | rotr row p d => exact rotateCommand_keepsParamsAndSchedule ..
  | rotc col p d => exact rotateCommand_keepsParamsAndSchedule ..
  | rota k p d => exact rotateCommand_keepsParamsAndSchedule ..
  | rotd l p d => exact rotateCommand_keepsParamsAndSchedule ..
  | apply => exact execApply_keepsParamsAndSchedule s

/-! ### Host accesses -/

theorem submit_keepsParamsAndSchedule (w : Word) (s : State) : KeepsParamsAndSchedule s (submit w s) := by
  unfold submit acceptCommand
  split_ifs
  · exact exec_keepsParamsAndSchedule ..
  · exact ⟨rfl, rfl⟩
  · simp
  · split
    · simp
    · simp
    · split
      · simp
      · split
        · simp
        · exact exec_keepsParamsAndSchedule ..

theorem writeRegister_keepsParamsAndSchedule (r : Reg) (v : Word) (s : State) :
    KeepsParamsAndSchedule s (writeRegister r v s) := by
  obtain ⟨-, h⟩ | ⟨-, h⟩ | ⟨-, -, -, h⟩ | ⟨-, -, -, h⟩ := writeRegister_cases r v s <;> rw [h]
  · exact submit_keepsParamsAndSchedule v s
  · split <;> simp
  · simp
  · simp

theorem readByte_keepsParamsAndSchedule (m : Memory) (a : Nat) (s : State) :
    KeepsParamsAndSchedule s (readByte m a s) := by
  obtain ⟨-, h⟩ | ⟨-, -, h⟩ | ⟨-, b, -, h⟩ := readByte_cases m a s <;> simp [h]

theorem writeBuf_keepsParamsAndSchedule (a : Nat) (b : Byte) (s : State) :
    KeepsParamsAndSchedule s (writeBuf a b s) := by
  unfold writeBuf; split <;> simp

theorem writeStream_keepsParamsAndSchedule (t : Nat) (b : Byte) (s : State) :
    KeepsParamsAndSchedule s (writeStream t b s) := by
  unfold writeStream; split <;> simp

theorem hostAccess_keepsParamsAndSchedule (x : Access) (s : State) : KeepsParamsAndSchedule s (hostAccess x s) := by
  unfold hostAccess accessTarget
  split
  · trivial
  · split
    · exact ⟨rfl, rfl⟩
    · exact writeRegister_keepsParamsAndSchedule ..
    · exact readByte_keepsParamsAndSchedule ..
    · exact writeBuf_keepsParamsAndSchedule ..
    · exact readByte_keepsParamsAndSchedule ..
    · exact writeStream_keepsParamsAndSchedule ..

/-! ### Turns -/

theorem unitTurn_keepsParamsAndSchedule (s : State) : KeepsParamsAndSchedule s (unitTurn s) := by
  cases hp : s.pending with
  | none => rw [unitTurn_idle hp]; exact ⟨rfl, rfl⟩
  | some w =>
    rw [unitTurn_pending hp]
    unfold runPending
    split
    · exact exec_keepsParamsAndSchedule ..
    · simp
    · simp

theorem takeTurn_keepsParamsAndSchedule (t : Turn) (s : State) : KeepsParamsAndSchedule s (takeTurn t s) := by
  cases t with
  | host x => exact hostAccess_keepsParamsAndSchedule x s
  | unit => exact unitTurn_keepsParamsAndSchedule s
  | powerOn => exact ⟨rfl, rfl⟩

/-- Settles O33: a turn changes neither, and the step takes the first turn off the schedule before it. -/
theorem parametersNeverChange : Obligations.ParametersNeverChange := by
  intro s t h
  cases hs : s.schedule with
  | nil =>
    have hkeeps := unitTurn_keepsParamsAndSchedule s
    rw [← step_of_empty hs, h] at hkeeps
    obtain ⟨hparams, hschedule⟩ := hkeeps
    exact ⟨hparams, hschedule.trans hs⟩
  | cons u rest =>
    have hkeeps := takeTurn_keepsParamsAndSchedule u (s.setSchedule rest)
    rwa [← step_of_turn hs, h] at hkeeps

end Sys2Proof.Machine
end

section
/-! PROOFS. Rounding in binary64 (00_scope.md R12): what `roundMag` keeps of a magnitude, and that no finite value
is nearer (O34, O35). A magnitude n · 2^−(1074+k) loses its `roundShift n k` low bits; the value kept is
`roundQuot` units of the last bit left. -/

namespace Sys2Proof.Machine

/-! ### One rounding to a multiple of a unit -/

/-- n / P rounded to the nearest integer, ties to even. -/
def roundQuot (n P : Nat) : Nat := n / P + if P < 2 * (n % P) ∨ (2 * (n % P) = P ∧ n / P % 2 = 1) then 1 else 0

/-- How far m · P lies from n. -/
def multipleDist (P n m : Nat) : Int := |(m : Int) * P - n|

theorem multipleDist_roundQuot (n P : Nat) :
    multipleDist P n (roundQuot n P) = |((roundQuot n P - n / P : Nat) : Int) * P - (n % P : Nat)| := by
  have hn : (n : Int) = P * (n / P : Nat) + (n % P : Nat) := by exact_mod_cast (Nat.div_add_mod n P).symm
  have hq : ((roundQuot n P : Nat) : Int) = (n / P : Nat) + (roundQuot n P - n / P : Nat) := by
    unfold roundQuot; omega
  unfold multipleDist
  rw [hq]
  congr 1
  linear_combination -hn

/-- The rounded multiple is at most half a unit away; at exactly half a unit it is the even one. -/
theorem multipleDist_roundQuot_half {n P : Nat} (hP : 0 < P) :
    2 * multipleDist P n (roundQuot n P) ≤ P ∧
    (2 * multipleDist P n (roundQuot n P) = P → roundQuot n P % 2 = 0) := by
  have hr : n % P < P := Nat.mod_lt n hP
  rw [multipleDist_roundQuot]
  unfold roundQuot
  split
  · rw [Nat.add_sub_cancel_left, Nat.cast_one, one_mul, abs_of_nonneg (by omega)]
    omega
  · rw [Nat.add_zero, Nat.sub_self, Nat.cast_zero, zero_mul, zero_sub, abs_neg, Nat.abs_cast]
    omega

/-- Two different multiples of P lie at least P apart, so on one side or the other of n. -/
theorem le_multipleDist_add {P n i j : Nat} (h : i ≠ j) : (P : Int) ≤ multipleDist P n i + multipleDist P n j := by
  have hij : (1 : Int) ≤ |(i : Int) - j| := Int.one_le_abs (by omega)
  calc (P : Int) ≤ |(i : Int) - j| * P := le_mul_of_one_le_left (by positivity) hij
    _ = |((i : Int) * P - n) - (j * P - n)| := by rw [sub_sub_sub_cancel_right, ← sub_mul, abs_mul, Nat.abs_cast]
    _ ≤ multipleDist P n i + multipleDist P n j := abs_sub _ _

theorem multipleDist_roundQuot_le {P : Nat} (hP : 0 < P) (n j : Nat) :
    multipleDist P n (roundQuot n P) ≤ multipleDist P n j := by
  by_cases h : roundQuot n P = j
  · rw [h]
  · have hhalf := (multipleDist_roundQuot_half (n := n) hP).1
    have hsep := le_multipleDist_add (P := P) (n := n) h
    omega

theorem roundQuot_even_of_tie {P n j : Nat} (hP : 0 < P) (hj : j ≠ roundQuot n P)
    (htie : multipleDist P n (roundQuot n P) = multipleDist P n j) : roundQuot n P % 2 = 0 := by
  obtain ⟨hhalf, heven⟩ := multipleDist_roundQuot_half (n := n) hP
  have hsep := le_multipleDist_add (P := P) (n := n) hj
  exact heven (by omega)

/-! ### Encodings and their magnitudes -/

/-- The magnitude, in units of 2^−1074, of an encoding without sign. -/
def bitsMag (b : Nat) : Nat := if b / 2 ^ 52 = 0 then b % 2 ^ 52 else (2 ^ 52 + b % 2 ^ 52) * 2 ^ (b / 2 ^ 52 - 1)

theorem fMag_eq_bitsMag (x : Word) : fMag x = bitsMag (fBits x) := rfl

/-- The encoding of m units of 2^(s−1074), for a subnormal (s = 0) or a normalised m, or one carried to 2^53. -/
theorem bitsMag_of_significand {s m : Nat} (hm : m ≤ 2 ^ 53) (hs : s = 0 ∨ 2 ^ 52 ≤ m) :
    bitsMag (s * 2 ^ 52 + m) = m * 2 ^ s := by
  unfold bitsMag
  have hcarry : m < 2 ^ 52 ∨ (2 ^ 52 ≤ m ∧ m < 2 ^ 53) ∨ m = 2 ^ 53 := by omega
  rcases hcarry with hsub | ⟨hlo, hhi⟩ | rfl
  · obtain rfl : s = 0 := by omega
    rw [if_pos (by omega), pow_zero, mul_one]
    omega
  · rw [show (s * 2 ^ 52 + m) / 2 ^ 52 = s + 1 by omega, show (s * 2 ^ 52 + m) % 2 ^ 52 = m - 2 ^ 52 by omega,
      if_neg (by omega), Nat.add_sub_cancel, Nat.add_sub_cancel' hlo]
  · rw [show (s * 2 ^ 52 + 2 ^ 53) / 2 ^ 52 = s + 2 by omega, show (s * 2 ^ 52 + 2 ^ 53) % 2 ^ 52 = 0 by omega,
      if_neg (by omega), show s + 2 - 1 = s + 1 by omega]
    ring

/-- Above 2^(52+s) units every binary64 magnitude is a multiple of 2^s units. -/
theorem dvd_bitsMag_or_lt (b s : Nat) : 2 ^ s ∣ bitsMag b ∨ bitsMag b < 2 ^ 52 * 2 ^ s := by
  have hf : b % 2 ^ 52 < 2 ^ 52 := Nat.mod_lt _ (by positivity)
  have hs : 0 < 2 ^ s := by positivity
  unfold bitsMag
  split
  · exact .inr (hf.trans_le (Nat.le_mul_of_pos_right _ hs))
  · rename_i he
    rcases Nat.lt_or_ge (b / 2 ^ 52 - 1) s with hlt | hge
    · right
      calc (2 ^ 52 + b % 2 ^ 52) * 2 ^ (b / 2 ^ 52 - 1)
          < (2 ^ 52 * 2) * 2 ^ (b / 2 ^ 52 - 1) := Nat.mul_lt_mul_of_pos_right (by omega) (by positivity)
        _ = 2 ^ 52 * 2 ^ (b / 2 ^ 52 - 1 + 1) := by rw [Nat.mul_assoc, ← Nat.pow_succ']
        _ ≤ 2 ^ 52 * 2 ^ s := Nat.mul_le_mul_left _ (Nat.pow_le_pow_right (by decide) hlt)
    · exact .inl (Dvd.dvd.mul_left (Nat.pow_dvd_pow 2 hge) _)

/-! ### roundMag -/

/-- The low bits that fall away: down to 53 significant ones, and to no finer a unit than 2^−1074. -/
def roundShift (n k : Nat) : Nat := max k (Nat.log2 n - 52)

theorem roundMag_eq (n k : Nat) :
    roundMag n k = min ((roundShift n k - k) * 2 ^ 52 + roundQuot n (2 ^ roundShift n k)) infBits := rfl

theorem roundMag_zero (k : Nat) : roundMag 0 k = 0 := by
  simp [roundMag_eq, roundShift, roundQuot, Nat.log2_zero]

theorem roundMag_le (n k : Nat) : roundMag n k ≤ infBits := min_le_right _ _

theorem roundQuot_le_of_shift (n k : Nat) : roundQuot n (2 ^ roundShift n k) ≤ 2 ^ 53 := by
  have hn : n < 2 ^ 53 * 2 ^ roundShift n k :=
    calc n < 2 ^ (n.log2 + 1) := Nat.lt_log2_self
      _ ≤ 2 ^ (53 + roundShift n k) := Nat.pow_le_pow_right (by decide) (by unfold roundShift; omega)
      _ = 2 ^ 53 * 2 ^ roundShift n k := Nat.pow_add ..
  have hq : n / 2 ^ roundShift n k < 2 ^ 53 := Nat.div_lt_of_lt_mul (by rwa [Nat.mul_comm])
  unfold roundQuot
  split <;> omega

/-- Where bits fall away beyond the unit 2^−1074, 53 significant ones are kept. -/
theorem le_of_roundShift_ne {n k : Nat} (h : roundShift n k ≠ k) : 2 ^ 52 * 2 ^ roundShift n k ≤ n := by
  have hlog : roundShift n k + 52 = n.log2 := by unfold roundShift at *; omega
  rw [← Nat.pow_add, Nat.add_comm, hlog]
  exact Nat.log2_self_le (by rintro rfl; simp at hlog)

theorem le_roundQuot_of_roundShift_ne {n k : Nat} (h : roundShift n k ≠ k) :
    2 ^ 52 ≤ roundQuot n (2 ^ roundShift n k) :=
  ((Nat.le_div_iff_mul_le (by positivity)).mpr (le_of_roundShift_ne h)).trans (Nat.le_add_right ..)

section
variable {n k : Nat}

theorem two_pow_roundShift (n k : Nat) : 2 ^ (roundShift n k - k) * 2 ^ k = 2 ^ roundShift n k := by
  have hk : k ≤ roundShift n k := le_max_left ..
  rw [← Nat.pow_add, Nat.sub_add_cancel hk]

theorem roundMag_of_finite (h : roundMag n k < infBits) :
    roundMag n k = (roundShift n k - k) * 2 ^ 52 + roundQuot n (2 ^ roundShift n k) := by
  rw [roundMag_eq] at h ⊢
  omega

theorem bitsMag_roundMag (h : roundMag n k < infBits) :
    bitsMag (roundMag n k) * 2 ^ k = roundQuot n (2 ^ roundShift n k) * 2 ^ roundShift n k := by
  rw [roundMag_of_finite h, bitsMag_of_significand (roundQuot_le_of_shift n k), Nat.mul_assoc, two_pow_roundShift]
  by_cases hs : roundShift n k = k
  · exact .inl (by omega)
  · exact .inr (le_roundQuot_of_roundShift_ne hs)

theorem roundMag_mod_two (h : roundMag n k < infBits) :
    roundMag n k % 2 = roundQuot n (2 ^ roundShift n k) % 2 := by
  rw [roundMag_of_finite h]
  omega

/-- How far the magnitude of an encoding lies from n, in units of 2^−(1074+k). -/
def magDist (n k b : Nat) : Int := |(bitsMag b : Int) * 2 ^ k - n|

theorem magDist_of_eq_mul {b j : Nat} (h : bitsMag b * 2 ^ k = j * 2 ^ roundShift n k) :
    magDist n k b = multipleDist (2 ^ roundShift n k) n j := by
  unfold magDist multipleDist
  congr 2
  exact_mod_cast h

/-- A binary64 magnitude is a multiple of the unit n is rounded to, or lies below every such multiple near n. -/
theorem bitsMag_mul_or_lt (n k b : Nat) :
    (∃ j, bitsMag b * 2 ^ k = j * 2 ^ roundShift n k) ∨
    (bitsMag b * 2 ^ k < 2 ^ 52 * 2 ^ roundShift n k ∧ 2 ^ 52 * 2 ^ roundShift n k ≤ n) := by
  by_cases hs : roundShift n k = k
  · exact .inl ⟨bitsMag b, by rw [hs]⟩
  · rcases dvd_bitsMag_or_lt b (roundShift n k - k) with ⟨j, hj⟩ | hlt
    · exact .inl ⟨j, by rw [hj, Nat.mul_right_comm, two_pow_roundShift, Nat.mul_comm]⟩
    · refine .inr ⟨?_, le_of_roundShift_ne hs⟩
      rw [← two_pow_roundShift, ← Nat.mul_assoc]
      exact Nat.mul_lt_mul_of_pos_right hlt (by positivity)

/-- The rounded encoding is as near to n as any encoding `b` (R12). -/
theorem magDist_roundMag_le (h : roundMag n k < infBits) (b : Nat) :
    magDist n k (roundMag n k) ≤ magDist n k b ∧
    (magDist n k (roundMag n k) = magDist n k b → bitsMag b ≠ bitsMag (roundMag n k) → roundMag n k % 2 = 0) := by
  have hP : 0 < 2 ^ roundShift n k := by positivity
  have hM := bitsMag_roundMag h
  rw [magDist_of_eq_mul hM, roundMag_mod_two h]
  rcases bitsMag_mul_or_lt n k b with ⟨j, hj⟩ | ⟨hlt, hle⟩
  · rw [magDist_of_eq_mul hj]
    refine ⟨multipleDist_roundQuot_le hP n j, fun htie hne => roundQuot_even_of_tie hP ?_ htie⟩
    rintro rfl
    exact hne (Nat.eq_of_mul_eq_mul_right (by positivity) (hj.trans hM.symm))
  · have hnear : multipleDist (2 ^ roundShift n k) n (roundQuot n (2 ^ roundShift n k)) < magDist n k b := by
      refine (multipleDist_roundQuot_le hP n (2 ^ 52)).trans_lt ?_
      unfold multipleDist magDist
      zify at hlt hle
      push_cast
      rw [abs_of_nonpos (by linarith), abs_of_neg (by linarith)]
      linarith
    exact ⟨hnear.le, fun htie => absurd htie hnear.ne⟩

end

/-! ### Packing and the two operations -/

theorem fBits_fPack (neg : Bool) {b : Nat} (h : b ≤ infBits) : fBits (fPack neg b) = b := by
  have hfit : infBits < 2 ^ 63 := by decide
  unfold fBits fPack
  rw [BitVec.toNat_ofNat]
  cases neg <;> simp only [Bool.false_eq_true, if_true, if_false] <;> omega

theorem fSign_fPack (neg : Bool) {b : Nat} (h : b ≤ infBits) : fSign (fPack neg b) = neg := by
  have hfit : infBits < 2 ^ 63 := by decide
  unfold fSign fPack
  rw [← BitVec.msb_eq_getLsbD_last, BitVec.msb_eq_decide, BitVec.toNat_ofNat]
  cases neg <;> simp only [Bool.false_eq_true, if_true, if_false, decide_eq_true_eq, decide_eq_false_iff_not] <;> omega

theorem fIsNaN_of_finite {x : Word} (h : fBits x < infBits) : fIsNaN x = false := decide_eq_false (by omega)

theorem fIsInf_of_finite {x : Word} (h : fBits x < infBits) : fIsInf x = false := decide_eq_false (by omega)

/-- The integer of magnitude m on v's side of 0. -/
def withSignOf (v : Int) (m : Nat) : Int := if v < 0 then -(m : Int) else m

theorem abs_withSignOf_fMag_sub (v : Int) (x : Word) :
    |withSignOf v (fMag x) - v| = magDist v.natAbs 0 (fBits x) := by
  rw [magDist, ← fMag_eq_bitsMag, pow_zero, mul_one]
  unfold withSignOf
  simp only [abs_eq_max_neg]
  split <;> omega

/-- A value on v's side of 0 is named by its magnitude; any other is farther from v than 0 is. -/
theorem fVal_eq_withSignOf_or_lt (c : Word) (v : Int) : fVal c = withSignOf v (fMag c) ∨ |0 - v| < |fVal c - v| := by
  unfold fVal withSignOf
  simp only [abs_eq_max_neg]
  split <;> split <;> omega

/-- A value on v's side of 0 whose magnitude is |v| rounded is the nearest to v, of those on either side. -/
theorem fVal_nearest {v : Int} {r : Word} (hsign : fVal r = withSignOf v (fMag r))
    (hbits : fBits r = roundMag v.natAbs 0) (hfin : fBits r < infBits) (c : Word) :
    |fVal r - v| ≤ |fVal c - v| ∧ (|fVal r - v| = |fVal c - v| → fVal c ≠ fVal r → fBits r % 2 = 0) := by
  have hnear := magDist_roundMag_le (hbits ▸ hfin)
  rw [← hbits] at hnear
  rw [hsign, abs_withSignOf_fMag_sub]
  rcases fVal_eq_withSignOf_or_lt c v with hc | hfar
  · obtain ⟨hle, htie⟩ := hnear (fBits c)
    rw [hc, abs_withSignOf_fMag_sub]
    exact ⟨hle, fun heq hne => htie heq fun hmag => hne (congrArg (withSignOf v) hmag)⟩
  · have hlt : magDist v.natAbs 0 (fBits r) < |fVal c - v| := by
      refine lt_of_le_of_lt ((hnear 0).1.trans_eq ?_) hfar
      simp [magDist, bitsMag]
    exact ⟨hlt.le, fun heq => absurd heq hlt.ne⟩

section
variable {a b : Word} (ha : fBits a < infBits) (hb : fBits b < infBits)
include ha hb

theorem flMul_of_finite : flMul a b = fPack (fSign a ^^ fSign b) (roundMag (fMag a * fMag b) minExp) := by
  simp [flMul, fIsNaN_of_finite, fIsInf_of_finite, ha, hb]

theorem flSub_of_finite :
    flSub a b = fPack (if fVal a - fVal b = 0 then fSign a && !fSign b else decide (fVal a - fVal b < 0))
      (roundMag (fVal a - fVal b).natAbs 0) := by
  simp [flSub, fIsNaN_of_finite, fIsInf_of_finite, ha, hb]

theorem fBits_flMul : fBits (flMul a b) = roundMag (fMag a * fMag b) minExp := by
  rw [flMul_of_finite ha hb, fBits_fPack _ (roundMag_le ..)]

theorem fBits_flSub : fBits (flSub a b) = roundMag (fVal a - fVal b).natAbs 0 := by
  rw [flSub_of_finite ha hb, fBits_fPack _ (roundMag_le ..)]

theorem fSign_flMul : fSign (flMul a b) = (fSign a ^^ fSign b) := by
  rw [flMul_of_finite ha hb, fSign_fPack _ (roundMag_le ..)]

/-- The difference of equal values is +0 but for (−0) − (+0). -/
theorem flSub_of_fVal_eq (h : fVal a = fVal b) :
    flSub a b = if fSign a && !fSign b then 0x8000000000000000 else 0 := by
  rw [flSub_of_finite ha hb, h, sub_self, Int.natAbs_zero, roundMag_zero, if_pos rfl]
  cases fSign a && !fSign b <;> rfl

/-- The difference is the rounded magnitude with the sign of the exact difference. -/
theorem fVal_flSub : fVal (flSub a b) = withSignOf (fVal a - fVal b) (fMag (flSub a b)) := by
  by_cases hv : fVal a - fVal b = 0
  · have hmag : fMag (flSub a b) = 0 := by rw [fMag_eq_bitsMag, fBits_flSub ha hb, hv]; simp [roundMag_zero, bitsMag]
    simp [fVal, withSignOf, hmag]
  · have hsign : fSign (flSub a b) = decide (fVal a - fVal b < 0) := by
      rw [flSub_of_finite ha hb, fSign_fPack _ (roundMag_le ..), if_neg hv]
    simp [fVal, withSignOf, hsign]

end

/-- Settles O34: the product of the magnitudes is rounded by `roundMag`, and no encoding is nearer. -/
theorem flMulRoundsToNearestEven : Obligations.FlMulRoundsToNearestEven := by
  intro a b c ha hb _ hfin
  have hbits := fBits_flMul ha hb
  rw [hbits] at hfin
  obtain ⟨hle, htie⟩ := magDist_roundMag_le hfin (fBits c)
  simp only [magDist, Nat.cast_mul] at hle htie
  simp only [fMag_eq_bitsMag (flMul a b), fMag_eq_bitsMag c, hbits]
  exact ⟨fSign_flMul ha hb, hle, htie⟩

/-- Settles O35: the magnitude of the exact difference is rounded by `roundMag` and keeps its sign, so no value of
either sign is nearer. -/
theorem flSubRoundsToNearestEven : Obligations.FlSubRoundsToNearestEven := by
  intro a b c ha hb _ hfin
  obtain ⟨hle, htie⟩ := fVal_nearest (fVal_flSub ha hb) (fBits_flSub ha hb) hfin c
  exact ⟨hle, htie, flSub_of_fVal_eq ha hb⟩

end Sys2Proof.Machine
end

section
/-! PROOFS. The address map (10_state.md R17; 20_memory.md R42 to R45): each window from its access and back (O16). -/

namespace Sys2Proof.Machine

theorem Reg.offset_le (r : Reg) : r.offset ≤ 0xFFF := by cases r <;> decide

theorem Reg.ofOffset_eq_some {o : Nat} {r : Reg} : Reg.ofOffset o = some r ↔ o = r.offset := by
  cases r <;> simp [Reg.ofOffset, Reg.offset, ite_eq_iff] <;> omega

theorem resolveRelative_eq_reg {p : Params} {o : Nat} {width : Width} {r : Reg} :
    resolveRelative p o width = some (.reg r) ↔ width = .b64 ∧ o = r.offset := by
  have hr := r.offset_le
  unfold resolveRelative
  split_ifs <;> simp [Reg.ofOffset_eq_some, *] <;> omega

/-- The BUF window holds every BUF byte (R44). -/
theorem Params.bufBytes_le {p : Params} (hp : p.legal = true) : p.bufBytes ≤ 0x100000 := by
  simp only [Params.legal, decide_eq_true_eq] at hp
  obtain ⟨-, hm, -, hn, -⟩ := hp
  exact Nat.mul_le_mul hm hn

/-- The STREAM window holds every STREAM byte (R44). -/
theorem Params.streamBytes_le {p : Params} (hp : p.legal = true) : p.streamBytes ≤ 0x1000000 := by
  simp only [Params.legal, decide_eq_true_eq] at hp
  obtain ⟨-, -, -, -, -, hl, -⟩ := hp
  exact Nat.div_le_div_right hl

theorem resolveRelative_eq_buf {p : Params} (hp : p.legal = true) {o : Nat} {width : Width} {k : Nat} :
    resolveRelative p o width = some (.buf k) ↔ width = .b8 ∧ k < p.bufBytes ∧ o = 0x100000 + k := by
  have hfits := Params.bufBytes_le hp
  unfold resolveRelative
  split_ifs <;> simp <;> grind

theorem resolveRelative_eq_stream {p : Params} (hp : p.legal = true) {o : Nat} {width : Width} {k : Nat} :
    resolveRelative p o width = some (.stream k) ↔ width = .b8 ∧ k < p.streamBytes ∧ o = 0x1000000 + k := by
  have hfits := Params.streamBytes_le hp
  unfold resolveRelative
  split_ifs <;> simp <;> grind

theorem resolve_eq_some {p : Params} {a : Nat} {width : Width} {t : Target} :
    resolve p a width = some t ↔ ∃ o, a = p.unitBase + o ∧ resolveRelative p o width = some t := by
  unfold resolve
  split_ifs with h
  · simp only [false_iff]
    rintro ⟨o, rfl, -⟩
    omega
  · constructor
    · exact fun ht => ⟨a - p.unitBase, by omega, ht⟩
    · rintro ⟨o, rfl, ht⟩
      rwa [Nat.add_sub_cancel_left]

theorem resolve_eq_reg {p : Params} {a : Nat} {width : Width} {r : Reg} :
    resolve p a width = some (.reg r) ↔ width = .b64 ∧ a = p.unitBase + r.offset := by
  simp only [resolve_eq_some, resolveRelative_eq_reg]
  grind

theorem resolve_eq_buf {p : Params} (hp : p.legal = true) {a : Nat} {width : Width} {k : Nat} :
    resolve p a width = some (.buf k) ↔ width = .b8 ∧ k < p.bufBytes ∧ a = p.unitBase + 0x100000 + k := by
  simp only [resolve_eq_some, resolveRelative_eq_buf hp]
  grind

theorem resolve_eq_stream {p : Params} (hp : p.legal = true) {a : Nat} {width : Width} {k : Nat} :
    resolve p a width = some (.stream k) ↔ width = .b8 ∧ k < p.streamBytes ∧ a = p.unitBase + 0x1000000 + k := by
  simp only [resolve_eq_some, resolveRelative_eq_stream hp]
  grind

/-- Settles O16: the windows do not overlap, and each memory fits in its own. -/
theorem addressMapIsTheThreeWindows : Obligations.AddressMapIsTheThreeWindows := by
  intro p a width hp
  exact ⟨resolve_eq_reg, resolve_eq_reg, resolve_eq_reg, resolve_eq_reg, resolve_eq_reg, resolve_eq_reg,
    resolve_eq_reg, resolve_eq_reg, resolve_eq_reg, resolve_eq_reg, resolve_eq_reg, resolve_eq_reg,
    fun _ => resolve_eq_buf hp, fun _ => resolve_eq_stream hp⟩

end Sys2Proof.Machine
end

section
/-! PROOFS. The cells of a line (41_rotation.md R84 to R86), the checks of the commands as conditions (R75, R92, R99),
and when a rotation faults (10_state.md R40, O48). -/

namespace Sys2Proof.Machine

/-! ### The cells of a line -/

theorem mem_rowLine {n i : Nat} {c : Cell} : c ∈ rowLine n i ↔ c.1 = i ∧ c.2 < n := by
  obtain ⟨a, b⟩ := c
  simp only [rowLine, List.mem_map, List.mem_range, Prod.mk.injEq]
  grind

theorem mem_colLine {m j : Nat} {c : Cell} : c ∈ colLine m j ↔ c.1 < m ∧ c.2 = j := by
  obtain ⟨a, b⟩ := c
  simp only [colLine, List.mem_map, List.mem_range, Prod.mk.injEq]
  grind

theorem mem_antiDiagLine {m n k : Nat} (hm : 1 ≤ m) (hk : k + 2 ≤ m + n) {c : Cell} :
    c ∈ antiDiagLine m n k ↔ c.1 < m ∧ c.2 < n ∧ c.1 + c.2 = k := by
  obtain ⟨a, b⟩ := c
  simp only [antiDiagLine, List.mem_map, List.mem_range, Prod.mk.injEq]
  constructor
  · rintro ⟨t, ht, ha, hb⟩
    omega
  · rintro ⟨ha, hb, hab⟩
    exact ⟨min k (m - 1) - a, by omega, by omega, by omega⟩

theorem mem_diagLine {m n : Nat} {l : Int} {c : Cell} :
    c ∈ diagLine m n l ↔ c.1 < m ∧ c.2 < n ∧ (c.1 : Int) - c.2 = l := by
  obtain ⟨a, b⟩ := c
  simp only [diagLine, List.mem_map, Prod.mk.injEq, List.bind_eq_flatMap, List.pure_def, List.mem_flatMap,
    List.mem_range, List.mem_singleton]
  constructor
  · rintro ⟨_, ⟨t, ht, rfl⟩, ha, hb⟩
    omega
  · rintro ⟨ha, hb, hab⟩
    exact ⟨a - max 0 l, ⟨((a : Int) - max 0 l).toNat, by omega, by omega⟩, by omega, by omega⟩

/-- A line of the block: every cell of it lies in the S_M × S_N block. -/
def InBlock (m n : Nat) (line : List Cell) : Prop := ∀ c ∈ line, c.1 < m ∧ c.2 < n

theorem rowLine_inBlock {m n i : Nat} (hi : i < m) : InBlock m n (rowLine n i) := fun c hc => by
  obtain ⟨hrow, hcol⟩ := mem_rowLine.mp hc
  exact ⟨hrow ▸ hi, hcol⟩

theorem colLine_inBlock {m n j : Nat} (hj : j < n) : InBlock m n (colLine m j) := fun c hc => by
  obtain ⟨hrow, hcol⟩ := mem_colLine.mp hc
  exact ⟨hrow, hcol ▸ hj⟩

theorem antiDiagLine_inBlock {m n k : Nat} (hm : 1 ≤ m) (hk : k + 2 ≤ m + n) : InBlock m n (antiDiagLine m n k) :=
  fun c hc => by
    obtain ⟨hrow, hcol, -⟩ := (mem_antiDiagLine hm hk).mp hc
    exact ⟨hrow, hcol⟩

theorem diagLine_inBlock {m n : Nat} {l : Int} : InBlock m n (diagLine m n l) := fun c hc => by
  obtain ⟨hrow, hcol, -⟩ := mem_diagLine.mp hc
  exact ⟨hrow, hcol⟩

theorem cellAddr_lt {m n : Nat} {c : Cell} (hrow : c.1 < m) (hcol : c.2 < n) : cellAddr n c < m * n := by
  unfold cellAddr
  calc c.1 * n + c.2 < (c.1 + 1) * n := by rw [Nat.add_one_mul]; omega
    _ ≤ m * n := Nat.mul_le_mul_right n hrow

theorem InBlock.lineAddrs_lt {m n : Nat} {line : List Cell} (h : InBlock m n line) :
    ∀ a ∈ lineAddrs n line, a < m * n := by
  intro a ha
  obtain ⟨c, hc, rfl⟩ := List.mem_map.mp ha
  obtain ⟨hrow, hcol⟩ := h c hc
  exact cellAddr_lt hrow hcol

/-- A block whose dimensions pass the checks lies within BUF (R38, R92 case 2). -/
theorem State.GeomOk.block_le {s : State} (h : s.GeomOk) : s.sm * s.sn ≤ s.params.bufBytes := by
  obtain ⟨-, hm, -, hn⟩ := h
  exact Nat.mul_le_mul hm hn

/-! ### The checks -/

theorem rotCheck_eq_none {s : State} {selOk : Bool} : rotCheck s selOk = none ↔ s.GeomOk ∧ selOk = true := by
  unfold rotCheck State.GeomOk
  split_ifs <;> simp_all <;> omega

theorem genCheck_eq_none {s : State} : genCheck s = none ↔ s.GenReady := by
  unfold genCheck State.GenReady
  split_ifs <;> simp_all

theorem applyCheck_eq_none {s : State} : applyCheck s = none ↔ s.ApplyChecksPass := by
  have hcursor : s.engine.cursorOk = true ↔
      s.cursor.toNat + s.cc ≤ 2 ^ 64 - 1 ∧ (s.decrypt = true → s.cc ≤ s.cursor.toNat) := by
    show (decide (s.cursor.toNat + s.cc ≤ 2 ^ 64 - 1) && (!s.decrypt || decide (s.cc ≤ s.cursor.toNat))) = true ↔ _
    cases s.decrypt <;> simp
  unfold applyCheck State.ApplyChecksPass State.GeomOk
  rw [← hcursor]
  split_ifs <;> simp_all <;> omega

/-- The command's own checks pass exactly under the conditions of R75, R92 and R99. -/
theorem commandCheck_eq_none {i : Instr} {s : State} : commandCheck i s = none ↔ CommandOk i s := by
  cases i with
  | nop => simp [commandCheck, CommandOk]
  | srst => simp [commandCheck, CommandOk]
  | gen => exact genCheck_eq_none
  | rotr row p d => simp [commandCheck, CommandOk, SelectorOk, rotCheck_eq_none, State.rowOk]
  | rotc col p d => simp [commandCheck, CommandOk, SelectorOk, rotCheck_eq_none, State.colOk]
  | rota k p d => simp [commandCheck, CommandOk, SelectorOk, rotCheck_eq_none, State.antiDiagOk]
  | rotd l p d => simp [commandCheck, CommandOk, SelectorOk, rotCheck_eq_none, State.diagOk]
  | apply => exact applyCheck_eq_none

/-! ### When a rotation faults -/

theorem rotateCommand_fault_iff {s : State} {selOk : Bool} (hc : rotCheck s selOk = none) (line : List Cell) (p : Nat)
    (d : Bool) :
    rotateCommand s selOk line p d = .fault .undefinedRead ↔ ∃ c ∈ line, s.buf.read (c.1 * s.sn + c.2) = none := by
  have hline : (∃ a ∈ lineAddrs s.sn line, s.buf.read a = none) ↔ ∃ c ∈ line, s.buf.read (c.1 * s.sn + c.2) = none := by
    simp [lineAddrs, cellAddr]
  rw [← hline]
  obtain ⟨c, hsome, -⟩ | ⟨-, hundef, h⟩ | ⟨-, m, hm, h⟩ := rotateCommand_cases s selOk line p d
  · cases hc.symm.trans hsome
  · exact iff_of_true h hundef
  · rw [← rotateLine_eq_none (p := p) (d := d), h, hm]
    simp

/-- Settles O48: the command reads the cells of its line and no others. -/
theorem rotationFaultsExactlyOnUndefinedLine : Obligations.RotationFaultsExactlyOnUndefinedLine := by
  intro s p d hgeom
  have ⟨hm, _, hn, _⟩ := hgeom
  have hcheck {i : Instr} (h : CommandOk i s) := commandCheck_eq_none.mpr h
  refine ⟨fun row hrow => ?_, fun col hcol => ?_, fun k hk => ?_, fun l hlo hhi => ?_⟩
  · refine (rotateCommand_fault_iff (hcheck (i := .rotr row p d) ⟨hgeom, hrow⟩) _ p d).trans ?_
    simp [mem_rowLine]
  · refine (rotateCommand_fault_iff (hcheck (i := .rotc col p d) ⟨hgeom, hcol⟩) _ p d).trans ?_
    simp [mem_colLine]
  · have hk : k + 2 ≤ s.sm + s.sn := by omega
    refine (rotateCommand_fault_iff (hcheck (i := .rota k p d) ⟨hgeom, hk⟩) _ p d).trans ?_
    simp [mem_antiDiagLine hm hk, and_assoc]
  · refine (rotateCommand_fault_iff (hcheck (i := .rotd l p d) ⟨hgeom, hlo, hhi⟩) _ p d).trans ?_
    simp [mem_diagLine, and_assoc]

end Sys2Proof.Machine
end

section
/-! PROOFS. What the rounds of APPLY keep of BUF and when they answer (42_subhcie.md R103, R107, R112): the rotations
stay in the block, and with every byte defined none is missing. -/

namespace Sys2Proof.Machine

/-- Every byte below the capacity n is defined (R40). -/
def Memory.DefinedBelow (n : Nat) (m : Memory) : Prop := ∀ a, a < n → (m.read a).isSome = true

theorem Memory.DefinedBelow.write {n : Nat} {m : Memory} (h : m.DefinedBelow n) (a : Nat) (b : Byte) :
    (m.write a b).DefinedBelow n := by
  intro x hx
  rw [Memory.read_write]
  split
  · rfl
  · exact h x hx

theorem Memory.DefinedBelow.writeAll {n : Nat} {m : Memory} (h : m.DefinedBelow n) (ps : List (Nat × Byte)) :
    (m.writeAll ps).DefinedBelow n := by
  induction ps generalizing m with
  | nil => exact h
  | cons p ps ih => exact ih (h.write p.1 p.2)

/-- On defined bytes Rotate answers, and leaves defined bytes. -/
theorem rotateLine_of_defined {addrs : List Nat} {n : Nat} {m : Memory} (hm : m.DefinedBelow n)
    (ha : ∀ a ∈ addrs, a < n) (p : Nat) (d : Bool) :
    ∃ m', rotateLine addrs p d m = some m' ∧ m'.DefinedBelow n := by
  cases hr : rotateLine addrs p d m with
  | none =>
    obtain ⟨a, hmem, hundef⟩ := (rotateLine_eq_none ..).mp hr
    simpa [hundef] using hm a (ha a hmem)
  | some m' =>
    unfold rotateLine at hr
    split at hr
    · cases hr
    · cases hr
      exact ⟨_, rfl, hm.writeAll _⟩

namespace Engine

variable {e : Engine}

/-- Every rotation of a round is on a line of the block (R84 to R86). -/
theorem roundLines_inBlock (hm : 1 ≤ e.sm) {q : Nat} : ∀ x ∈ e.roundLines q, InBlock e.sm e.sn x.line := by
  have hrow : ∀ x ∈ e.rowPhase q, InBlock e.sm e.sn x.line := by
    simp only [rowPhase, List.forall_mem_map, List.mem_range]
    exact fun i hi => rowLine_inBlock hi
  have hcol : ∀ x ∈ e.colPhase q, InBlock e.sm e.sn x.line := by
    simp only [colPhase, List.forall_mem_map, List.mem_range]
    exact fun j hj => colLine_inBlock hj
  have hanti : ∀ x ∈ e.antiDiagPhase q, InBlock e.sm e.sn x.line := by
    simp only [antiDiagPhase, List.forall_mem_map, List.mem_range]
    exact fun k hk => antiDiagLine_inBlock hm (by omega)
  have hdiag : ∀ x ∈ e.diagPhase q, InBlock e.sm e.sn x.line := by
    simp only [diagPhase, List.forall_mem_map]
    exact fun _ _ => diagLine_inBlock
  intro x hx
  unfold roundLines at hx
  split at hx <;> simp only [List.mem_append] at hx
  · obtain ((h | h) | h) | h := hx
    exacts [hdiag x h, hanti x h, hcol x h, hrow x h]
  · obtain ((h | h) | h) | h := hx
    exacts [hrow x h, hcol x h, hanti x h, hdiag x h]

/-- The rounds write no byte beyond the block. -/
theorem runRounds_within (hm : 1 ≤ e.sm) {n : Nat} (hn : e.sm * e.sn ≤ n) {rs : List Nat} {m m' : Memory}
    (h : e.runRounds rs m = some m') (hw : m.within n = true) : m'.within n = true := by
  refine e.runRounds_keeps (P := fun m => m.within n = true) (fun r _ m m' hr hw => ?_) h hw
  unfold runRound at hr
  split at hr
  · cases hr
  · refine e.runLines_keeps (P := fun m => m.within n = true) (fun x hx _ _ _ hrot => ?_) hr hw
    exact rotateLine_within hrot fun a ha => ((roundLines_inBlock hm x hx).lineAddrs_lt a ha).trans_le hn

/-- With every direction bit defined, rotations on lines of a defined block all answer. -/
theorem runLines_of_defined (hbit : ∀ k, (e.bit k).isSome = true) (p : Nat) {n : Nat} {xs : List LineTurn}
    (hxs : ∀ x ∈ xs, ∀ a ∈ lineAddrs e.sn x.line, a < n) {m : Memory} (hm : m.DefinedBelow n) :
    ∃ m', e.runLines p xs m = some m' ∧ m'.DefinedBelow n := by
  induction xs generalizing m with
  | nil => exact ⟨m, rfl, hm⟩
  | cons x xs ih =>
    obtain ⟨hx, hxs⟩ := List.forall_mem_cons.mp hxs
    obtain ⟨b, hb⟩ := Option.isSome_iff_exists.mp (hbit x.pos)
    obtain ⟨m', hrot, hm'⟩ := rotateLine_of_defined hm hx p (b ^^ e.decrypt)
    simpa only [runLines, hb, hrot] using ih hxs hm'

theorem runRound_of_defined (hbit : ∀ k, (e.bit k).isSome = true) (hsm : 1 ≤ e.sm) (r : Nat) {m : Memory}
    (hm : m.DefinedBelow (e.sm * e.sn)) : ∃ m', e.runRound r m = some m' ∧ m'.DefinedBelow (e.sm * e.sn) := by
  obtain ⟨b0, h0⟩ := Option.isSome_iff_exists.mp (hbit (e.roundStart r))
  obtain ⟨b1, h1⟩ := Option.isSome_iff_exists.mp (hbit (e.roundStart r + 1))
  simp only [runRound, roundShift, h0, h1]
  exact runLines_of_defined hbit _ (fun x hx => (roundLines_inBlock hsm x hx).lineAddrs_lt) hm

/-- With every bit of the stream and every byte of the block defined, the rounds answer (R112). -/
theorem runRounds_of_defined (hbit : ∀ k, (e.bit k).isSome = true) (hsm : 1 ≤ e.sm) (rs : List Nat) {m : Memory}
    (hm : m.DefinedBelow (e.sm * e.sn)) : ∃ m', e.runRounds rs m = some m' := by
  induction rs generalizing m with
  | nil => exact ⟨m, rfl⟩
  | cons r rs ih =>
    obtain ⟨m', hround, hm'⟩ := runRound_of_defined hbit hsm r hm
    simpa only [runRounds, hround] using ih hm'

end Engine

/-- Every bit of a stream whose bytes are defined is defined (R48). -/
theorem streamBit_isSome {stream : Memory} {len n : Nat} (hlen : 1 ≤ len) (hn : len ≤ 8 * n)
    (h : stream.DefinedBelow n) (k : Nat) : (streamBit stream len k).isSome = true := by
  have hmod : k % len < len := Nat.mod_lt k hlen
  simpa [streamBit] using h (k % len / 8) (by omega)

end Sys2Proof.Machine
end

section
/-! PROOFS. What one transition can do, said once: the completion of an accepted command (20_memory.md R53), a host
access (43_control.md R115 to R118, 60_exceptions.md R123), and the step. -/

namespace Sys2Proof.Machine

/-! ### Completion -/

/-- What the completion of command i can be in a state where its checks pass. -/
inductive CompletionEffect (s : State) : Instr → Host.Outcome State Fault Refusal → Prop
  | generated (bs : List Byte) (hfit : bs.length ≤ s.params.streamBytes) :
      CompletionEffect s .gen (.next (s.setStream (s.stream.writeFrom 0 bs)).finish)
  | aborted (bs : List Byte) (hfit : bs.length ≤ s.params.streamBytes) :
      CompletionEffect s .gen (.next ((s.setStream (s.stream.writeFrom 0 bs)).raise .numericRange).finish)
  | rotated {i : Instr} {line : List Cell} {p : Nat} {d : Bool} {m : Memory} (hgeom : s.GeomOk)
      (hline : InBlock s.sm s.sn line) (hm : rotateLine (lineAddrs s.sn line) p d s.buf = some m) :
      CompletionEffect s i (.next (s.setBuf m).finish)
  | applied {m : Memory} (hok : s.ApplyChecksPass) (hm : s.engine.runRounds s.engine.roundOrder s.buf = some m) :
      CompletionEffect s .apply (.next ((s.setBuf m).setCursor s.engine.cursorAfter).finish)
  | undefinedLine {i : Instr} {a : Nat} (hgeom : s.GeomOk) (ha : a < s.sm * s.sn) (hread : s.buf.read a = none) :
      CompletionEffect s i (.fault .undefinedRead)
  | undefinedRounds (hok : s.ApplyChecksPass) (hnone : s.engine.runRounds s.engine.roundOrder s.buf = none) :
      CompletionEffect s .apply (.fault .undefinedRead)

theorem rotateCommand_completionEffect {s : State} {selOk : Bool} (hc : rotCheck s selOk = none) {line : List Cell}
    (hline : InBlock s.sm s.sn line) (i : Instr) (p : Nat) (d : Bool) :
    CompletionEffect s i (rotateCommand s selOk line p d) := by
  obtain ⟨hgeom, -⟩ := rotCheck_eq_none.mp hc
  obtain ⟨c, hsome, -⟩ | ⟨-, ⟨a, ha, hread⟩, h⟩ | ⟨-, m, hm, h⟩ := rotateCommand_cases s selOk line p d
  · cases hc.symm.trans hsome
  · rw [h]; exact .undefinedLine hgeom (hline.lineAddrs_lt a ha) hread
  · rw [h]; exact .rotated hgeom hline hm

theorem execApply_completionEffect {s : State} (hc : applyCheck s = none) :
    CompletionEffect s .apply (execApply s) := by
  have hok := applyCheck_eq_none.mp hc
  obtain ⟨c, hsome, -⟩ | ⟨-, hnone, h⟩ | ⟨-, m, hm, h⟩ := execApply_cases s
  · cases hc.symm.trans hsome
  · rw [h]; exact .undefinedRounds hok hnone
  · rw [h]; exact .applied hok hm

/-- The bytes of GEN fit in STREAM (R39, R75). -/
theorem genRun_length_le {s : State} (hp : s.params.legal = true) (hc : genCheck s = none) :
    s.genRun.bytes.length ≤ s.params.streamBytes := by
  obtain ⟨⟨-, hlen⟩, -⟩ := genCheck_eq_none.mp hc
  simp only [Params.legal, decide_eq_true_eq] at hp
  obtain ⟨-, -, -, -, -, -, hmod⟩ := hp
  calc s.genRun.bytes.length ≤ (s.len + 7) / 8 := genLoop_length_le ..
    _ ≤ s.params.lMax / 8 := by omega

theorem execGen_completionEffect {s : State} (hp : s.params.legal = true) (hc : genCheck s = none) :
    CompletionEffect s .gen (execGen s) := by
  have hfit := genRun_length_le hp hc
  obtain ⟨c, hsome, -⟩ | ⟨-, -, h⟩ | ⟨-, -, h⟩ := execGen_cases s
  · cases hc.symm.trans hsome
  · rw [h]; exact .generated _ hfit
  · rw [h]; exact .aborted _ hfit

theorem exec_completionEffect {s : State} {i : Instr} (hp : s.params.legal = true) (hstay : staysPending i = true)
    (hc : commandCheck i s = none) : CompletionEffect s i (exec i s) := by
  have hok := commandCheck_eq_none.mp hc
  cases i with
  | nop => cases hstay
  | srst => cases hstay
  | gen => exact execGen_completionEffect hp hc
  | rotr row p d => exact rotateCommand_completionEffect hc (rowLine_inBlock hok.2) _ p d
  | rotc col p d => exact rotateCommand_completionEffect hc (colLine_inBlock hok.2) _ p d
  | rota k p d => exact rotateCommand_completionEffect hc (antiDiagLine_inBlock hok.1.1 hok.2) _ p d
  | rotd l p d => exact rotateCommand_completionEffect hc diagLine_inBlock _ p d
  | apply => exact execApply_completionEffect hc

/-! ### Host accesses -/

/-- What a host access can be. -/
inductive AccessEffect (x : Access) (s : State) : Host.Outcome State Fault Refusal → Prop
  | answered (r : Response) (n : Nat) : AccessEffect x s (.next ((s.setResponse r).setDraws n))
  | ignored : AccessEffect x s (.next s)
  | raised (c : ErrorCode) : AccessEffect x s (.next (s.raise c))
  | cleared {v : Word} (hop : x.op = .write v) (ht : resolve s.params x.addr x.width = some (.reg .status))
      (hbit : v.getLsbD 1 = true) : AccessEffect x s (.next s.clearError)
  | reset {v : Word} (hop : x.op = .write v) (ht : resolve s.params x.addr x.width = some (.reg .cmd))
      (hsrst : v.extractLsb' 0 8 = 0x01) : AccessEffect x s (.next s.afterReset)
  | accepted {w : Word} {i : Instr} (hidle : s.pending = none) (hdec : decode w = .command i)
      (hstay : staysPending i = true) (hc : commandCheck i s = none) :
      AccessEffect x s (.next (s.setPending (some w)))
  | stored {r : Reg} {v : Word} (hop : x.op = .write v) (ht : resolve s.params x.addr x.width = some (.reg r))
      (hidle : s.pending = none) : AccessEffect x s (.next (s.storeReg r v))
  | bufWritten {a : Nat} (b : Byte) (ht : resolve s.params x.addr x.width = some (.buf a))
      (hidle : s.pending = none) :
      AccessEffect x s (.next (s.setBuf (s.buf.write a b)))
  | streamWritten {a : Nat} (b : Byte) (ht : resolve s.params x.addr x.width = some (.stream a))
      (hidle : s.pending = none) :
      AccessEffect x s (.next (s.setStream (s.stream.write a b)))
  | undefinedBuf {a : Nat} (ht : resolve s.params x.addr x.width = some (.buf a)) (hread : s.buf.read a = none) :
      AccessEffect x s (.fault .undefinedRead)
  | undefinedStream {a : Nat} (ht : resolve s.params x.addr x.width = some (.stream a))
      (hread : s.stream.read a = none) : AccessEffect x s (.fault .undefinedRead)
  | malformed (ht : resolve s.params x.addr x.width = none) : AccessEffect x s (.refused .malformedAccess)

theorem State.busy_eq_false {s : State} : s.busy = false ↔ s.pending = none := by simp [State.busy]

theorem State.finish_of_idle {s : State} (h : s.pending = none) : s.finish = s := by
  unfold State.finish State.setPending; rw [← h]

theorem eq_of_decodeZ {i j : Instr} {w : Word} (h : decodeZ i w = .command j) : i = j := by
  unfold decodeZ at h
  split_ifs at h
  exact Decoded.command.inj h

theorem eq_of_decodeR {i j : Instr} {w : Word} (h : decodeR i w = .command j) : i = j := by
  unfold decodeR at h
  split_ifs at h
  exact Decoded.command.inj h

/-- A word that decodes to a command carries its OP (R64). -/
theorem opField_of_decode {w : Word} {i : Instr} (h : decode w = .command i) : opField w = i.opcode := by
  simp only [decode, ite_eq_iff] at h
  obtain ⟨hop, h⟩ | ⟨-, ⟨hop, h⟩ | ⟨-, ⟨hop, h⟩ | ⟨-, ⟨hop, h⟩ | ⟨-, ⟨hop, h⟩ | ⟨-, ⟨hop, h⟩ | ⟨-, ⟨hop, h⟩ |
    ⟨-, ⟨hop, h⟩ | ⟨-, h⟩⟩⟩⟩⟩⟩⟩⟩ := h
  exacts [eq_of_decodeZ h ▸ hop, Decoded.command.inj h ▸ hop, eq_of_decodeZ h ▸ hop, eq_of_decodeR h ▸ hop,
    eq_of_decodeR h ▸ hop, eq_of_decodeR h ▸ hop, eq_of_decodeR h ▸ hop, eq_of_decodeZ h ▸ hop, nomatch h]

theorem submit_accessEffect {x : Access} {s : State} {w : Word} (hop : x.op = .write w)
    (ht : resolve s.params x.addr x.width = some (.reg .cmd)) : AccessEffect x s (submit w s) := by
  unfold submit
  split_ifs with hsrst herr hbusy
  · exact .reset hop ht hsrst
  · exact .ignored
  · exact .raised _
  have hidle : s.pending = none := State.busy_eq_false.mp (by simpa using hbusy)
  split
  case h_1 => exact .raised _
  case h_2 => exact .raised _
  case h_3 i hdec =>
    unfold acceptCommand
    split
    · exact .raised _
    split_ifs with hstay
    · exact .accepted hidle hdec hstay ‹_›
    cases i with
    | nop => simpa [exec, execNop, State.finish_of_idle hidle] using AccessEffect.ignored
    | srst => exact absurd (opField_of_decode hdec) hsrst
    | _ => exact absurd rfl hstay

theorem writeRegister_accessEffect {x : Access} {s : State} {r : Reg} {v : Word} (hop : x.op = .write v)
    (ht : resolve s.params x.addr x.width = some (.reg r)) : AccessEffect x s (writeRegister r v s) := by
  obtain ⟨rfl, h⟩ | ⟨rfl, h⟩ | ⟨-, -, -, h⟩ | ⟨-, -, hidle, h⟩ := writeRegister_cases r v s <;> rw [h]
  · exact submit_accessEffect hop ht
  · split_ifs with hbit
    · exact .cleared hop ht hbit
    · exact .ignored
  · exact .raised _
  · exact .stored hop ht (State.busy_eq_false.mp hidle)

theorem readByte_accessEffect {x : Access} {s : State} {m : Memory} {a : Nat}
    (hundef : m.read a = none → AccessEffect x s (.fault .undefinedRead)) : AccessEffect x s (readByte m a s) := by
  obtain ⟨-, h⟩ | ⟨-, hread, h⟩ | ⟨-, b, -, h⟩ := readByte_cases m a s <;> rw [h]
  · exact .answered _ _
  · exact hundef hread
  · exact AccessEffect.answered (s := s) (.byte b) s.draws

theorem hostAccess_accessEffect (x : Access) (s : State) : AccessEffect x s (hostAccess x s) := by
  unfold hostAccess accessTarget
  split
  case h_1 ht => exact .malformed ht
  case h_2 t ht =>
    split
    · exact AccessEffect.answered (s := s) (.word (s.readReg _)) s.draws
    · exact writeRegister_accessEffect ‹_› ht
    · exact readByte_accessEffect (.undefinedBuf ht)
    · unfold writeBuf
      split_ifs with hbusy
      · exact .raised _
      · exact .bufWritten _ ht (State.busy_eq_false.mp (by simpa using hbusy))
    · exact readByte_accessEffect (.undefinedStream ht)
    · unfold writeStream
      split_ifs with hbusy
      · exact .raised _
      · exact .streamWritten _ ht (State.busy_eq_false.mp (by simpa using hbusy))

end Sys2Proof.Machine
end

section
/-! PROOFS. What one step can be (10_state.md R13, 20_memory.md R53), and the invariant every step keeps (O29, O30). -/

namespace Sys2Proof.Machine

/-! ### What keeps the invariant -/

theorem State.resetOf_eq_afterReset (p : Params) : State.resetOf p = (State.resetOf p).afterReset := rfl

theorem State.afterReset_inv {s : State} (hp : s.params.legal = true) : s.afterReset.Inv where
  params := hp
  bufWf := rfl
  bufWithin := rfl
  streamWf := rfl
  streamWithin := rfl
  errorOk := rfl
  reservedZero := show (State.resetOf Params.chosen).ReservedZero by decide
  pendingOk := trivial

/-- Settles O29: the reset state is its own state after reset. -/
theorem invariantHoldsAtReset : Obligations.InvariantHoldsAtReset := by
  have hreset (p : Params) (hp : p.legal = true) : (State.resetOf p).Inv :=
    State.resetOf_eq_afterReset p ▸ State.afterReset_inv hp
  exact ⟨hreset, hreset _ (by decide)⟩

theorem ErrorCode.bits_mem (c : ErrorCode) : c.bits ∈ errorCodes := by cases c <;> decide

@[simp] theorem State.storeReg_pending (s : State) (r : Reg) (v : Word) : (s.storeReg r v).pending = s.pending := by
  cases r <;> rfl

theorem State.pendingOk_of_idle {s : State} (h : s.pending = none) : s.PendingOk := by
  unfold State.PendingOk
  rw [h]
  trivial

/-- A store forces the RAZ/WI bits of its register to 0 (R33). -/
theorem State.ReservedZero.storeReg {s : State} (h : s.ReservedZero) (r : Reg) (v : Word) :
    (s.storeReg r v).ReservedZero := by
  obtain ⟨hlen, hgeom, hrounds, hweights, hmode⟩ := h
  cases r with
  | streamLen => exact ⟨by simp [State.storeReg, Reg.keep, BitVec.extractLsb'_and], hgeom, hrounds, hweights, hmode⟩
  | geom => exact ⟨hlen, by simp [State.storeReg, Reg.keep, BitVec.extractLsb'_and], hrounds, hweights, hmode⟩
  | rounds => exact ⟨hlen, hgeom, by simp [State.storeReg, Reg.keep, BitVec.extractLsb'_and], hweights, hmode⟩
  | weights => exact ⟨hlen, hgeom, hrounds, by simp [State.storeReg, Reg.keep, BitVec.extractLsb'_and], hmode⟩
  | mode => exact ⟨hlen, hgeom, hrounds, hweights, by simp [State.storeReg, Reg.keep, BitVec.extractLsb'_and]⟩
  | _ => exact ⟨hlen, hgeom, hrounds, hweights, hmode⟩

namespace State.Inv

variable {s : State} (hs : s.Inv)
include hs

theorem setSchedule (l : List Turn) : (s.setSchedule l).Inv := { hs with }

theorem setResponse (r : Response) : (s.setResponse r).Inv := { hs with }

theorem setDraws (n : Nat) : (s.setDraws n).Inv := { hs with }

theorem setBuf {m : Memory} (hwf : m.wf = true) (hwithin : m.within s.params.bufBytes = true) : (s.setBuf m).Inv :=
  { hs with bufWf := hwf, bufWithin := hwithin }

theorem setStream {m : Memory} (hwf : m.wf = true) (hwithin : m.within s.params.streamBytes = true) :
    (s.setStream m).Inv :=
  { hs with streamWf := hwf, streamWithin := hwithin }

theorem finish : s.finish.Inv := { hs with pendingOk := trivial }

theorem clearError : s.clearError.Inv := { hs with errorOk := rfl }

theorem raise (c : ErrorCode) : (s.raise c).Inv := by
  unfold State.raise
  split
  · exact hs
  · exact { hs with errorOk := c.bits_mem }

theorem setPending {w : Word} {i : Instr} (hdec : decode w = .command i) (hstay : staysPending i = true)
    (hc : commandCheck i s = none) : (s.setPending (some w)).Inv := by
  refine { hs with pendingOk := ?_ }
  simp only [State.PendingOk, State.setPending_pending, hdec]
  exact ⟨hstay, hc⟩

theorem storeReg (hidle : s.pending = none) (r : Reg) (v : Word) : (s.storeReg r v).Inv := by
  have hres := hs.reservedZero.storeReg r v
  have hpend := State.pendingOk_of_idle ((s.storeReg_pending r v).trans hidle)
  cases r <;> exact { hs with reservedZero := hres, pendingOk := hpend }

end State.Inv

/-! ### What a step can be -/

/-- The unit waits, or completes the accepted command, whose checks pass. -/
theorem State.Inv.unitTurn_cases {s : State} (hs : s.Inv) :
    (s.pending = none ∧ unitTurn s = .next s) ∨
    ∃ w i, s.pending = some w ∧ decode w = .command i ∧ CompletionEffect s i (unitTurn s) := by
  cases hw : s.pending with
  | none => exact .inl ⟨rfl, unitTurn_idle hw⟩
  | some w =>
    have hpend := hs.pendingOk
    simp only [State.PendingOk, hw] at hpend
    split at hpend
    case h_1 i hdec =>
      obtain ⟨hstay, hc⟩ := hpend
      rw [unitTurn_pending hw, runPending, hdec]
      exact .inr ⟨w, i, rfl, hdec, exec_completionEffect hs.params hstay hc⟩
    case h_2 => exact hpend.elim
    case h_3 => exact hpend.elim

/-- The kinds of step from a state that meets the invariant, each on the state with its turn taken off the schedule:
the unit waits, the unit completes a command, the host makes an access, power is lost and returns (R13, R53, R137). -/
inductive StepEffect (s : State) : Host.Outcome State Fault Refusal → Prop
  | waits : StepEffect s (.next (s.setSchedule s.schedule.tail))
  | completes {w : Word} {i : Instr} {o : Host.Outcome State Fault Refusal}
      (hturn : s.schedule = [] ∨ ∃ rest, s.schedule = .unit :: rest) (hw : s.pending = some w)
      (hdec : decode w = .command i) (heff : CompletionEffect (s.setSchedule s.schedule.tail) i o) : StepEffect s o
  | accesses {x : Access} {rest : List Turn} {o : Host.Outcome State Fault Refusal}
      (hturn : s.schedule = .host x :: rest) (heff : AccessEffect x (s.setSchedule s.schedule.tail) o) : StepEffect s o
  | powersOn {rest : List Turn} (hturn : s.schedule = .powerOn :: rest) :
      StepEffect s (.next (s.setSchedule s.schedule.tail).afterReset)

theorem step_of_head {s : State} {u : Turn} {rest : List Turn} (h : s.schedule = u :: rest) :
    step s = takeTurn u (s.setSchedule s.schedule.tail) := by
  rw [step_of_turn h, h, List.tail_cons]

theorem step_of_unit {s : State} (h : s.schedule = [] ∨ ∃ rest, s.schedule = .unit :: rest) :
    step s = unitTurn (s.setSchedule s.schedule.tail) := by
  obtain h | ⟨rest, h⟩ := h
  · have hself : s.setSchedule s.schedule.tail = s := by rw [h, List.tail_nil, ← h]; rfl
    rw [hself, step_of_empty h]
  · rw [step_of_head h]
    rfl

theorem State.Inv.stepEffect {s : State} (hs : s.Inv) : StepEffect s (step s) := by
  have hunit (h : s.schedule = [] ∨ ∃ rest, s.schedule = .unit :: rest) : StepEffect s (step s) := by
    rw [step_of_unit h]
    obtain ⟨-, hnext⟩ | ⟨w, i, hw, hdec, heff⟩ := (hs.setSchedule s.schedule.tail).unitTurn_cases
    · rw [hnext]; exact .waits
    · exact .completes h hw hdec heff
  match hsched : s.schedule with
  | [] => exact hunit (.inl hsched)
  | .unit :: rest => exact hunit (.inr ⟨rest, hsched⟩)
  | .host x :: rest =>
    rw [step_of_head hsched]
    exact .accesses hsched (hostAccess_accessEffect x _)
  | .powerOn :: rest =>
    rw [step_of_head hsched]
    exact .powersOn hsched

/-! ### Every step keeps the invariant -/

section
variable {s t : State} (hs : s.Inv)
include hs

/-- BUF stays canonical and within its capacity when a line of the block is rotated. -/
theorem State.Inv.setBuf_rotateLine {line : List Cell} {p : Nat} {d : Bool} {m : Memory} (hgeom : s.GeomOk)
    (hline : InBlock s.sm s.sn line) (hm : rotateLine (lineAddrs s.sn line) p d s.buf = some m) :
    (s.setBuf m).Inv :=
  hs.setBuf (rotateLine_wf hm hs.bufWf)
    (rotateLine_within hm (fun a ha => (hline.lineAddrs_lt a ha).trans_le hgeom.block_le) hs.bufWithin)

theorem State.Inv.setBuf_runRounds {m : Memory} (hgeom : s.GeomOk)
    (hm : s.engine.runRounds s.engine.roundOrder s.buf = some m) :
    (s.setBuf m).Inv :=
  hs.setBuf (Engine.runRounds_wf _ hm hs.bufWf) (Engine.runRounds_within hgeom.1 hgeom.block_le hm hs.bufWithin)

theorem State.Inv.setStream_writeFrom {bs : List Byte} (hfit : bs.length ≤ s.params.streamBytes) :
    (s.setStream (s.stream.writeFrom 0 bs)).Inv :=
  hs.setStream (Memory.writeFrom_wf _ _ _ hs.streamWf)
    (Memory.writeFrom_within _ _ _ (by rwa [Nat.zero_add]) hs.streamWithin)

theorem State.Inv.completionEffect {i : Instr} (h : CompletionEffect s i (.next t)) : t.Inv := by
  cases h with
  | generated bs hfit => exact (hs.setStream_writeFrom hfit).finish
  | aborted bs hfit => exact ((hs.setStream_writeFrom hfit).raise _).finish
  | rotated hgeom hline hm => exact (hs.setBuf_rotateLine hgeom hline hm).finish
  | applied hok hm => exact (hs.setBuf_runRounds hok.1 hm).finish.storeReg rfl .cursor _

theorem State.Inv.accessEffect {x : Access} (h : AccessEffect x s (.next t)) : t.Inv := by
  cases h with
  | answered r n => exact (hs.setResponse r).setDraws n
  | ignored => exact hs
  | raised c => exact hs.raise c
  | cleared => exact hs.clearError
  | reset => exact State.afterReset_inv hs.params
  | accepted _ hdec hstay hc => exact hs.setPending hdec hstay hc
  | stored _ _ hidle => exact hs.storeReg hidle _ _
  | bufWritten b ht =>
    obtain ⟨-, ha, -⟩ := (resolve_eq_buf hs.params).mp ht
    exact hs.setBuf (Memory.wf_write _ _ b hs.bufWf) (Memory.within_write _ b ha hs.bufWithin)
  | streamWritten b ht =>
    obtain ⟨-, ha, -⟩ := (resolve_eq_stream hs.params).mp ht
    exact hs.setStream (Memory.wf_write _ _ b hs.streamWf) (Memory.within_write _ b ha hs.streamWithin)

end

/-- Settles O30: whatever the step is, each of its updates keeps the invariant. -/
theorem stepKeepsTheInvariant : Obligations.StepKeepsTheInvariant := by
  intro s t hs h
  have hturn := hs.setSchedule s.schedule.tail
  have heff := hs.stepEffect
  rw [h] at heff
  cases heff with
  | waits => exact hturn
  | completes _ _ _ heff => exact hturn.completionEffect heff
  | accesses _ heff => exact hturn.accessEffect heff
  | powersOn => exact State.afterReset_inv hturn.params

end Sys2Proof.Machine
end

section
/-! PROOFS. What rests on the kinds of step: what clears ERR (O26), what moves CURSOR (O27), and that a unit with every
byte defined never faults (O31). -/

namespace Sys2Proof.Machine

/-! ### ERR and ERRCODE -/

/-- A recorded error stands, with its code (R122). -/
def ErrorStands (s t : State) : Prop := t.err = true ∧ t.errCode = s.errCode

variable {s t : State}

theorem CompletionEffect.errorStands {i : Instr} (h : CompletionEffect s i (.next t)) (herr : s.err = true) :
    ErrorStands s t := by
  cases h <;> simp [ErrorStands, herr]

/-- An access leaves a recorded error alone unless it is a STATUS write with bit 1 = 1 or SRST (R21, R22). -/
theorem AccessEffect.errorStands_or {x : Access} (h : AccessEffect x s (.next t)) (herr : s.err = true) :
    ErrorStands s t ∨ t.err = false ∧ ∃ v, x.op = .write v ∧
      ((resolve s.params x.addr x.width = some (.reg .status) ∧ v.getLsbD 1 = true) ∨
       (resolve s.params x.addr x.width = some (.reg .cmd) ∧ v.extractLsb' 0 8 = 0x01)) := by
  cases h with
  | cleared hop ht hbit => exact .inr ⟨rfl, _, hop, .inl ⟨ht, hbit⟩⟩
  | reset hop ht hsrst => exact .inr ⟨rfl, _, hop, .inr ⟨ht, hsrst⟩⟩
  | raised c => exact .inl (by simp [ErrorStands, herr])
  | @stored r => exact .inl (by cases r <;> exact ⟨herr, rfl⟩)
  | _ => exact .inl ⟨herr, rfl⟩

/-- Settles O26: every other kind of step leaves a recorded error alone. -/
theorem onlyThreeThingsClearTheError : Obligations.OnlyThreeThingsClearTheError := by
  intro s t hs h herr
  have hstands (hst : ErrorStands s t) {P : Prop} : (t.err = true → t.errCode = s.errCode) ∧ (t.err = false → P) :=
    ⟨fun _ => hst.2, fun hclear => by simp [hst.1] at hclear⟩
  have heff := hs.stepEffect
  rw [h] at heff
  cases heff with
  | waits => exact hstands ⟨herr, rfl⟩
  | completes _ _ _ heff => exact hstands (heff.errorStands herr)
  | @accesses x rest _ hturn heff =>
    obtain hst | ⟨hclear, v, hop, htarget⟩ := heff.errorStands_or herr
    · exact hstands hst
    · exact ⟨fun ht => by simp [hclear] at ht, fun _ => .inr ⟨x, v, rest, hturn, hop, htarget⟩⟩
  | powersOn hturn => exact ⟨nofun, fun _ => .inl ⟨_, hturn⟩⟩

/-! ### CURSOR -/

/-- Only APPLY moves CURSOR at completion, and then it has raised no error (R104, R108). -/
theorem CompletionEffect.of_cursor_ne {i : Instr} (h : CompletionEffect s i (.next t)) (hmove : t.cursor ≠ s.cursor) :
    i = .apply ∧ t.pending = none ∧ t.err = s.err ∧ t.errCode = s.errCode := by
  cases h with
  | applied => exact ⟨rfl, rfl, rfl, rfl⟩
  | _ => exact absurd (by simp) hmove

/-- Of the host's accesses only SRST and a write to CURSOR of an idle unit move it (R32). -/
theorem AccessEffect.of_cursor_ne {x : Access} (h : AccessEffect x s (.next t)) (hmove : t.cursor ≠ s.cursor) :
    ∃ v, x.op = .write v ∧
      ((resolve s.params x.addr x.width = some (.reg .cmd) ∧ v.extractLsb' 0 8 = 0x01) ∨
       (resolve s.params x.addr x.width = some (.reg .cursor) ∧ s.pending = none ∧ t.cursor = v)) := by
  cases h with
  | reset hop ht hsrst => exact ⟨_, hop, .inl ⟨ht, hsrst⟩⟩
  | @stored r v hop ht hidle =>
    cases r with
    | cursor => exact ⟨v, hop, .inr ⟨ht, hidle, rfl⟩⟩
    | _ => exact absurd rfl hmove
  | _ => exact absurd (by simp) hmove

/-- Settles O27: every other kind of step keeps CURSOR. -/
theorem onlyHostApplyAndResetMoveTheCursor : Obligations.OnlyHostApplyAndResetMoveTheCursor := by
  intro s t hs h hmove
  have heff := hs.stepEffect
  rw [h] at heff
  cases heff with
  | waits => exact absurd rfl hmove
  | completes hturn hw hdec heff =>
    obtain ⟨rfl, hdone⟩ := heff.of_cursor_ne hmove
    exact .inr (.inr ⟨hturn, _, hw, hdec, hdone⟩)
  | @accesses x rest _ hturn heff =>
    obtain ⟨v, hop, htarget⟩ := heff.of_cursor_ne hmove
    exact .inr (.inl ⟨x, v, rest, hturn, hop, htarget⟩)
  | powersOn hturn => exact .inl ⟨_, hturn⟩

/-! ### Faults -/

/-- Every byte of both memories is defined. -/
def AllDefined (s : State) : Prop :=
  s.buf.DefinedBelow s.params.bufBytes ∧ s.stream.DefinedBelow s.params.streamBytes

theorem CompletionEffect.not_allDefined {i : Instr} {f : Fault} (h : CompletionEffect s i (.fault f))
    (hp : s.params.legal = true) : ¬ AllDefined s := by
  rintro ⟨hbuf, hstream⟩
  cases h with
  | undefinedLine hgeom ha hread => simpa [hread] using hbuf _ (ha.trans_le hgeom.block_le)
  | undefinedRounds hok hnone =>
    obtain ⟨hgeom, -, -, ⟨hlen, hmax⟩, -⟩ := hok
    simp only [Params.legal, decide_eq_true_eq] at hp
    obtain ⟨-, -, -, -, -, -, hmod⟩ := hp
    have hbit := streamBit_isSome hlen (show s.len ≤ 8 * (s.params.lMax / 8) by omega) hstream
    have hblock : s.buf.DefinedBelow (s.sm * s.sn) := fun a ha => hbuf a (ha.trans_le hgeom.block_le)
    obtain ⟨m, hm⟩ := Engine.runRounds_of_defined (e := s.engine) hbit hgeom.1 s.engine.roundOrder hblock
    cases hnone.symm.trans hm

theorem AccessEffect.not_allDefined {x : Access} {f : Fault} (h : AccessEffect x s (.fault f))
    (hp : s.params.legal = true) : ¬ AllDefined s := by
  rintro ⟨hbuf, hstream⟩
  cases h with
  | undefinedBuf ht hread =>
    obtain ⟨-, ha, -⟩ := (resolve_eq_buf hp).mp ht
    simpa [hread] using hbuf _ ha
  | undefinedStream ht hread =>
    obtain ⟨-, ha, -⟩ := (resolve_eq_stream hp).mp ht
    simpa [hread] using hstream _ ha

/-- Settles O31: only a completion or an access can fault, and each only on an undefined byte within a capacity. -/
theorem fullyDefinedUnitNeverFaults : Obligations.FullyDefinedUnitNeverFaults := by
  intro s hs hbuf hstream f h
  have heff := hs.stepEffect
  rw [h] at heff
  cases heff with
  | completes _ _ _ heff => exact heff.not_allDefined hs.params ⟨hbuf, hstream⟩
  | accesses _ heff => exact heff.not_allDefined hs.params ⟨hbuf, hstream⟩

end Sys2Proof.Machine
end

section
/-! PROOFS. The turns (O13), the STATUS write (O19), register reads (O20) and what reset leaves (O24). -/

namespace Sys2Proof.Machine

/-! ### Turns and accesses -/

/-- Settles O13: the first turn of the schedule fixes the step. -/
theorem stepTakesTheFirstTurn : Obligations.StepTakesTheFirstTurn := by
  intro s rest
  refine ⟨fun x h => step_of_turn h, fun h => step_of_turn h, fun h hidle => ?_, fun h hidle => ?_⟩
  · exact (step_of_turn h).trans (unitTurn_idle hidle)
  · exact (step_of_empty h).trans (unitTurn_idle hidle)

theorem hostAccess_write_reg {s : State} {x : Access} {v : Word} {r : Reg} (hop : x.op = .write v)
    (ht : resolve s.params x.addr x.width = some (.reg r)) : hostAccess x s = writeRegister r v s := by
  unfold hostAccess
  rw [ht, hop]
  rfl

/-- Settles O19: a STATUS write comes before the BUSY check. -/
theorem statusWriteClearsOnlyTheError : Obligations.StatusWriteClearsOnlyTheError := by
  intro s x v hop ht
  rw [hostAccess_write_reg hop ht]
  rfl

/-! ### Register reads -/

theorem capWord_fields (p : Params) :
    (capWord p).extractLsb' 0 16 = BitVec.ofNat 16 p.smMax ∧
    (capWord p).extractLsb' 16 16 = BitVec.ofNat 16 p.snMax ∧
    (capWord p).extractLsb' 32 32 = BitVec.ofNat 32 p.lMax := by
  unfold capWord
  refine ⟨?_, ?_, ?_⟩ <;> ext k hk <;> simp <;> grind

theorem statusWord_fields (s : State) :
    s.statusWord.getLsbD 0 = s.pending.isSome ∧ s.statusWord.getLsbD 1 = s.err ∧
    s.statusWord.extractLsb' 2 6 = 0#6 ∧ s.statusWord.extractLsb' 8 8 = s.errCode ∧
    s.statusWord.extractLsb' 16 48 = 0#48 := by
  unfold State.statusWord
  refine ⟨?_, ?_, ?_, ?_, ?_⟩
  · simp only [BitVec.getLsbD_append, BitVec.getLsbD_ofBool, State.busy]
    simp
  · simp only [BitVec.getLsbD_append, BitVec.getLsbD_ofBool]
    simp
  all_goals ext k hk; simp; grind

/-- Settles O20: each register reads its word of the map, STATUS and CAP field by field. -/
theorem registersReadAsTheMapSays : Obligations.RegistersReadAsTheMapSays := by
  intro s
  obtain ⟨hsm, hsn, hl⟩ := capWord_fields s.params
  obtain ⟨hbusy, herr, hlow, hcode, hhigh⟩ := statusWord_fields s
  exact ⟨rfl, hsm, hsn, hl, hbusy, herr, hlow, hcode, hhigh, rfl, rfl, rfl, rfl, rfl, rfl, rfl, rfl, rfl⟩

/-! ### Reset -/

/-- A command of an idle unit with ERR = 0 whose check fails raises its error and nothing else (R121, R123). -/
theorem submit_of_check_fails {s : State} {w : Word} {i : Instr} {c : ErrorCode} (hdec : decode w = .command i)
    (herr : s.err = false) (hidle : s.pending = none) (hc : commandCheck i s = some c) :
    submit w s = .next { s with err := true, errCode := c.bits } := by
  have hnotSrst : opField w ≠ 0x01 := by
    intro hop
    rw [opField_of_decode hdec] at hop
    cases i with
    | srst => cases hc
    | _ => simp [Instr.opcode] at hop
  unfold submit
  rw [if_neg hnotSrst]
  simp [herr, State.busy_eq_false.mpr hidle, hdec, acceptCommand, hc, State.raise_eq, State.setError]

theorem State.afterReset_resetValues (s : State) : ResetValues s.afterReset := by
  refine ⟨rfl, rfl, fun r hid hcap => ?_, rfl, rfl, rfl, fun _ => ⟨rfl, rfl⟩⟩
  cases r with
  | id => exact absurd rfl hid
  | cap => exact absurd rfl hcap
  | status =>
    show 0#48 ++ 0#8 ++ 0#6 ++ BitVec.ofBool false ++ BitVec.ofBool false = 0
    decide
  | _ => simp [State.readReg]

/-- The reset values make GEN and APPLY raise a configuration error (R41). -/
theorem submit_afterReset (s : State) :
    submit 0x0000000000000010 s.afterReset = .next { s.afterReset with err := true, errCode := 0x15 } ∧
    submit 0x0000000000000030 s.afterReset = .next { s.afterReset with err := true, errCode := 0x10 } :=
  ⟨submit_of_check_fails (i := .gen) (c := .streamRange) (by decide) rfl rfl rfl,
    submit_of_check_fails (i := .apply) (c := .zeroBlock) (by decide) rfl rfl rfl⟩

/-- Settles O24: after power-on and after SRST the unit is in a state after reset. -/
theorem resetLeavesTheValuesOfTheMap : Obligations.ResetLeavesTheValuesOfTheMap := by
  refine ⟨fun p => ?_, fun s => ?_⟩
  · rw [State.resetOf_eq_afterReset]
    exact ⟨State.afterReset_resetValues _, submit_afterReset _⟩
  · exact ⟨s.afterReset, rfl, s.afterReset_resetValues, rfl, rfl, submit_afterReset s⟩

end Sys2Proof.Machine
end

section
/-! PROOFS. The unit's turn is exec of what is pending (20_memory.md R53; O11, O12), and acceptance followed by it is
exec (60_exceptions.md R123; O14). -/

namespace Sys2Proof.Machine

/-! ### The unit's turn -/

theorem unitTurn_command {s : State} {w : Word} {i : Instr} (hw : s.pending = some w) (hdec : decode w = .command i) :
    unitTurn s = exec i s := by
  rw [unitTurn_pending hw, runPending, hdec]

/-- Settles O11: the unit's turn, scheduled or not, runs what PENDING decodes to. -/
theorem stepRunsThePendingCommand : Obligations.StepRunsThePendingCommand := by
  intro s w i hw hdec
  refine ⟨fun h => ?_, fun rest h => ?_⟩
  · exact (step_of_empty h).trans (unitTurn_command hw hdec)
  · exact (step_of_turn h).trans (unitTurn_command hw hdec)

theorem decode_of_decodeTableWord {nbits w : Nat} {i : Instr} (h : decodeTableWord nbits w = some i) :
    decode (BitVec.ofNat 64 (w % 2 ^ nbits)) = .command i := by
  unfold decodeTableWord at h
  split at h
  · rename_i hdec
    cases h
    exact hdec
  · cases h
  · cases h

/-- Settles O12: the placed word is pending and the unit's turn comes first. -/
theorem placedWordIsRunNext : Obligations.PlacedWordIsRunNext := by
  intro s nbits w i h
  exact (stepRunsThePendingCommand (s.withFetchWord nbits w) _ i rfl (decode_of_decodeTableWord h)).2 s.schedule rfl

/-! ### exec reads nothing of PENDING -/

theorem State.raise_finish_setPending (s : State) (w : Option Word) (c : ErrorCode) :
    ((s.setPending w).raise c).finish = (s.raise c).finish := by
  rw [State.raise_eq, State.raise_eq]
  rfl

theorem State.checked_setPending (s : State) (w : Option Word) (failed : Option ErrorCode)
    (effect : Host.Outcome State Fault Refusal) :
    (s.setPending w).checked failed effect = s.checked failed effect := by
  cases failed with
  | none => rfl
  | some c => exact congrArg Host.Outcome.next (s.raise_finish_setPending w c)

theorem execGen_setPending (s : State) (w : Option Word) : execGen (s.setPending w) = execGen s := by
  refine (s.checked_setPending w _ _).trans (congrArg (s.checked (genCheck s)) ?_)
  show Host.Outcome.next (if s.genRun.aborted then _ else _) = .next (if s.genRun.aborted then _ else _)
  split
  · exact congrArg Host.Outcome.next
      ((s.setStream (s.stream.writeFrom 0 s.genRun.bytes)).raise_finish_setPending w .numericRange)
  · rfl

/-- Every command ends with PENDING none and looks at no pending word (R53). -/
theorem exec_setPending (i : Instr) (s : State) (w : Option Word) : exec i (s.setPending w) = exec i s := by
  cases i with
  | nop => rfl
  | srst => rfl
  | gen => exact execGen_setPending s w
  | _ => exact s.checked_setPending w _ _

/-! ### Acceptance -/

/-- A command whose check fails raises that error at completion too (log 8). -/
theorem exec_of_check_fails {i : Instr} {s : State} {c : ErrorCode} (h : commandCheck i s = some c) :
    exec i s = .next (s.raise c).finish := by
  cases i with
  | nop => cases h
  | srst => cases h
  | _ => exact congrArg (s.checked · _) h

theorem submit_of_srst {w : Word} (h : opField w = 0x01) (s : State) : submit w s = exec .srst s := by
  unfold submit
  rw [if_pos h]

/-- For an idle unit with ERR = 0 only the cases 6 and 7 of R123 are left; SRST fits them too. -/
theorem submit_of_idle {s : State} {w : Word} {i : Instr} (hdec : decode w = .command i) (herr : s.err = false)
    (hidle : s.pending = none) : submit w s = acceptCommand i w s := by
  by_cases hop : opField w = 0x01
  · have hi : i = .srst := by
      rw [opField_of_decode hdec] at hop
      cases i with
      | srst => rfl
      | _ => simp [Instr.opcode] at hop
    rw [submit_of_srst hop, hi]
    rfl
  · unfold submit
    rw [if_neg hop]
    simp [herr, State.busy_eq_false.mpr hidle, hdec]

/-- A command that does not stay pending, because a check fails or because it is NOP or SRST, is over at once. -/
theorem acceptCommand_eq_exec {i : Instr} {w : Word} {s : State} (hidle : s.pending = none)
    (h : commandCheck i s ≠ none ∨ staysPending i = false) :
    ∃ t, acceptCommand i w s = .next t ∧ t.pending = none ∧ exec i s = .next t := by
  unfold acceptCommand
  cases hc : commandCheck i s with
  | some c =>
    have hraise : (s.raise c).pending = none := (s.raise_pending c).trans hidle
    exact ⟨s.raise c, rfl, hraise, by rw [exec_of_check_fails hc, State.finish_of_idle hraise]⟩
  | none =>
    have hstay : staysPending i = false := h.resolve_left (absurd hc)
    cases i with
    | nop => exact ⟨s.finish, rfl, rfl, rfl⟩
    | srst => exact ⟨s.afterReset, rfl, rfl, rfl⟩
    | _ => cases hstay

theorem staysPending_eq_false {i : Instr} : staysPending i = false ↔ i = .nop ∨ i = .srst := by
  cases i <;> simp [staysPending]

theorem acceptCommand_of_stays {i : Instr} {w : Word} {s : State} (hc : commandCheck i s = none)
    (hstay : staysPending i = true) : acceptCommand i w s = .next (s.setPending (some w)) := by
  simp [acceptCommand, hc, hstay]

/-- Settles O14: a command that is over at once leaves what exec leaves; one that stays pending waits for the unit's
turn, and exec does not look at PENDING. -/
theorem acceptThenCompleteIsExec : Obligations.AcceptThenCompleteIsExec := by
  intro s x rest w i hsched ht hop herr hidle hdec
  have hstep : step s = acceptCommand i w (s.setSchedule rest) :=
    calc step s = hostAccess x (s.setSchedule rest) := step_of_turn hsched
      _ = submit w (s.setSchedule rest) := hostAccess_write_reg (s := s.setSchedule rest) hop ht
      _ = acceptCommand i w (s.setSchedule rest) := submit_of_idle hdec herr hidle
  have hok : commandCheck i (s.setSchedule rest) = none ↔ CommandOk i s := commandCheck_eq_none
  rw [hstep]
  refine ⟨fun h => acceptCommand_eq_exec hidle ?_, fun hpass hnop hsrst => ⟨?_, ?_⟩⟩
  · rwa [Ne, hok, staysPending_eq_false]
  · have hstay : staysPending i = true := by simpa [hnop, hsrst] using staysPending_eq_false (i := i)
    exact acceptCommand_of_stays (hok.mpr hpass) hstay
  · exact (unitTurn_command rfl hdec).trans (exec_setPending i (s.setSchedule rest) (some w))

end Sys2Proof.Machine
end

section
/-! PROOFS. Host accesses (20_memory.md R45, R53 to R55; 43_control.md R115 to R118): which are refused (O17, O32),
what the host can change while BUSY = 1 (O22, O28), and what reads do (O23). -/

namespace Sys2Proof.Machine

/-! ### Refusals -/

theorem AccessEffect.of_refused {x : Access} {s : State} {r : Refusal} (h : AccessEffect x s (.refused r)) :
    r = .malformedAccess ∧ resolve s.params x.addr x.width = none := by
  cases h with
  | malformed ht => exact ⟨rfl, ht⟩

/-- A refusal comes from an access that reaches nothing (R45). -/
theorem hostAccess_refused_iff {x : Access} {s : State} :
    (∃ r, hostAccess x s = .refused r) ↔ resolve s.params x.addr x.width = none := by
  constructor
  · rintro ⟨r, h⟩
    exact (h ▸ hostAccess_accessEffect x s).of_refused.2
  · intro ht
    exact ⟨.malformedAccess, by rw [hostAccess, ht]⟩

/-- The offsets of R17 are those of the registers. -/
theorem mem_offsets {o : Nat} :
    o ∈ [0x000, 0x008, 0x010, 0x018, 0x020, 0x028, 0x030, 0x038, 0x040, 0x048, 0x050, 0x058] ↔
      ∃ r : Reg, o = r.offset := by
  constructor
  · intro h
    have hsome : (Reg.ofOffset o).isSome = true := by
      revert o
      decide
    obtain ⟨r, hr⟩ := Option.isSome_iff_exists.mp hsome
    exact ⟨r, Reg.ofOffset_eq_some.mp hr⟩
  · rintro ⟨r, rfl⟩
    cases r <;> decide

/-- Settles O17: an access reaches something exactly by one of the three forms of the address map. -/
theorem malformedAccessesAreRefused : Obligations.MalformedAccessesAreRefused := by
  intro s x hp
  rw [hostAccess_refused_iff, ← not_iff_not, not_not, ← Ne, Option.ne_none_iff_exists']
  constructor
  · rintro ⟨r | k | k, ht⟩
    · obtain ⟨hwidth, haddr⟩ := resolve_eq_reg.mp ht
      exact .inl ⟨hwidth, r.offset, mem_offsets.mpr ⟨r, rfl⟩, haddr⟩
    · obtain ⟨hwidth, hk, haddr⟩ := (resolve_eq_buf hp).mp ht
      exact .inr (.inl ⟨hwidth, k, hk, haddr⟩)
    · obtain ⟨hwidth, hk, haddr⟩ := (resolve_eq_stream hp).mp ht
      exact .inr (.inr ⟨hwidth, k, hk, haddr⟩)
  · rintro (⟨hwidth, o, ho, haddr⟩ | ⟨hwidth, k, hk, haddr⟩ | ⟨hwidth, k, hk, haddr⟩)
    · obtain ⟨r, rfl⟩ := mem_offsets.mp ho
      exact ⟨.reg r, resolve_eq_reg.mpr ⟨hwidth, haddr⟩⟩
    · exact ⟨.buf k, (resolve_eq_buf hp).mpr ⟨hwidth, hk, haddr⟩⟩
    · exact ⟨.stream k, (resolve_eq_stream hp).mpr ⟨hwidth, hk, haddr⟩⟩

theorem rotateCommand_ne_refused (s : State) (selOk : Bool) (line : List Cell) (p : Nat) (d : Bool) (r : Refusal) :
    rotateCommand s selOk line p d ≠ .refused r := by
  obtain ⟨c, -, h⟩ | ⟨-, -, h⟩ | ⟨-, m, -, h⟩ := rotateCommand_cases s selOk line p d <;> simp [h]

theorem execApply_ne_refused (s : State) (r : Refusal) : execApply s ≠ .refused r := by
  obtain ⟨c, -, h⟩ | ⟨-, -, h⟩ | ⟨-, m, -, h⟩ := execApply_cases s <;> simp [h]

theorem execGen_ne_refused (s : State) (r : Refusal) : execGen s ≠ .refused r := by
  obtain ⟨c, -, h⟩ | ⟨-, -, h⟩ | ⟨-, -, h⟩ := execGen_cases s <;> simp [h]

theorem exec_ne_refused (i : Instr) (s : State) (r : Refusal) : exec i s ≠ .refused r := by
  cases i with
  | nop => nofun
  | srst => nofun
  | gen => exact execGen_ne_refused s r
  | apply => exact execApply_ne_refused s r
  | _ => exact rotateCommand_ne_refused _ _ _ _ _ r

theorem unitTurn_ne_refused (s : State) (r : Refusal) : unitTurn s ≠ .refused r := by
  cases hw : s.pending with
  | none => simp [unitTurn_idle hw]
  | some w =>
    rw [unitTurn_pending hw, runPending]
    split
    · exact exec_ne_refused _ s r
    · nofun
    · nofun

/-- Settles O32: neither the unit's turn nor power-on refuses. -/
theorem stepRefusesOnlyMalformedAccesses : Obligations.StepRefusesOnlyMalformedAccesses := by
  intro s r h
  match hsched : s.schedule with
  | [] =>
    rw [step_of_empty hsched] at h
    exact absurd h (unitTurn_ne_refused s r)
  | .unit :: rest =>
    rw [step_of_turn hsched] at h
    exact absurd h (unitTurn_ne_refused _ r)
  | .powerOn :: rest =>
    rw [step_of_turn hsched] at h
    cases h
  | .host x :: rest =>
    have heff : AccessEffect x (s.setSchedule rest) (step s) :=
      step_of_turn hsched ▸ hostAccess_accessEffect x (s.setSchedule rest)
    rw [h] at heff
    obtain ⟨hr, ht⟩ := heff.of_refused
    exact ⟨hr, x, rest, rfl, ht⟩

/-! ### While BUSY = 1 -/

theorem State.busy_eq_true {s : State} : s.busy = true ↔ s.pending ≠ none := by
  simp [State.busy, Option.isSome_iff_ne_none]

theorem State.raise_of_err {s : State} (h : s.err = true) (c : ErrorCode) : s.raise c = s := by
  simp [State.raise, h]

section
variable {s : State} (hbusy : s.busy = true)
include hbusy

/-- While BUSY = 1 a word other than SRST is dropped, by case 2 of R123 or by case 3. -/
theorem submit_of_busy {w : Word} (hsrst : opField w ≠ 0x01) : submit w s = .next (s.raise .busyAccess) := by
  unfold submit
  rw [if_neg hsrst]
  split_ifs with herr
  · rw [State.raise_of_err herr]
  · rfl

theorem writeRegister_of_busy {r : Reg} {v : Word} (hstatus : r ≠ .status)
    (hsrst : ¬(r = .cmd ∧ opField v = 0x01)) : writeRegister r v s = .next (s.raise .busyAccess) := by
  obtain ⟨rfl, h⟩ | ⟨hr, -⟩ | ⟨-, -, -, h⟩ | ⟨-, -, hidle, -⟩ := writeRegister_cases r v s
  · rw [h, submit_of_busy hbusy fun hop => hsrst ⟨rfl, hop⟩]
  · exact absurd hr hstatus
  · exact h
  · cases hbusy.symm.trans hidle

/-- Any write but to STATUS and of SRST raises BUSY_ACCESS and has no other effect (R54). -/
theorem accessTarget_write_of_busy {tgt : Target} {v : Word} (hstatus : tgt ≠ .reg .status)
    (hsrst : ¬(tgt = .reg .cmd ∧ opField v = 0x01)) :
    accessTarget tgt (.write v) s = .next (s.raise .busyAccess) := by
  cases tgt with
  | reg r => exact writeRegister_of_busy hbusy (by simpa using hstatus) (by simpa using hsrst)
  | buf a => exact if_pos hbusy
  | stream a => exact if_pos hbusy

end

theorem hostAccess_of_resolve {s : State} {x : Access} {tgt : Target}
    (ht : resolve s.params x.addr x.width = some tgt) : hostAccess x s = accessTarget tgt x.op s := by
  rw [hostAccess, ht]

/-- Settles O22: STATUS and SRST come before the BUSY check, every other write after it. -/
theorem busyWritesAreDropped : Obligations.BusyWritesAreDropped := by
  intro s x v tgt hpend hop ht
  refine ⟨?_, ?_, fun hstatus hsrst => ?_⟩
  · rintro rfl
    exact statusWriteClearsOnlyTheError s x v hop ht
  · rintro rfl hsrst
    exact (hostAccess_write_reg hop ht).trans (submit_of_srst hsrst s)
  · rw [hostAccess_of_resolve ht, hop, accessTarget_write_of_busy (State.busy_eq_true.mpr hpend) hstatus hsrst]
    rfl

/-- Settles O28: an access to a busy unit answers, raises, clears or resets; every store needs an idle unit. -/
theorem operandsAreFrozenWhileBusy : Obligations.OperandsAreFrozenWhileBusy := by
  intro s t x hpend h
  have heff : AccessEffect x s (.next t) := h ▸ hostAccess_accessEffect x s
  cases heff with
  | reset hop ht hsrst => exact .inl ⟨_, hop, ht, hsrst⟩
  | answered r n => exact .inr rfl
  | ignored => exact .inr rfl
  | raised c => exact .inr (by rw [State.raise_eq]; rfl)
  | cleared => exact .inr rfl
  | accepted hidle => exact absurd hidle hpend
  | stored _ _ hidle => exact absurd hidle hpend
  | bufWritten _ _ hidle => exact absurd hidle hpend
  | streamWritten _ _ hidle => exact absurd hidle hpend

/-! ### Reads -/

/-- A byte read is the same read of either memory (R116, R117). -/
theorem hostAccess_read_byte {s : State} {x : Access} {m : Memory} {a : Nat} (hop : x.op = .read)
    (ht : (resolve s.params x.addr x.width = some (.buf a) ∧ m = s.buf) ∨
      (resolve s.params x.addr x.width = some (.stream a) ∧ m = s.stream)) :
    hostAccess x s = readByte m a s := by
  obtain ⟨ht, rfl⟩ | ⟨ht, rfl⟩ := ht <;> rw [hostAccess_of_resolve ht, hop, accessTarget]

/-- Settles O23: a register read answers in every state, a byte read in one of three ways. -/
theorem readsAnswerAndChangeNothingElse : Obligations.ReadsAnswerAndChangeNothingElse := by
  intro s x hop
  refine ⟨fun r ht => ?_, fun a m ht => ?_⟩
  · rw [hostAccess_of_resolve ht, hop]
    rfl
  · rw [hostAccess_read_byte hop ht]
    obtain ⟨hbusy, h⟩ | ⟨hbusy, hread, h⟩ | ⟨hbusy, b, hread, h⟩ := readByte_cases m a s
    · have hpend := State.busy_eq_true.mp hbusy
      exact ⟨fun hidle => absurd hidle hpend, fun hidle => absurd hidle hpend, fun _ => ⟨_, h⟩⟩
    · have hidle := State.busy_eq_false.mp hbusy
      exact ⟨fun _ b hb => (nomatch hread.symm.trans hb), fun _ _ => h, absurd hidle⟩
    · have hidle := State.busy_eq_false.mp hbusy
      refine ⟨fun _ b' hb => ?_, fun _ hnone => (nomatch hread.symm.trans hnone), absurd hidle⟩
      cases hread.symm.trans hb
      exact h

end Sys2Proof.Machine
end

section
/-! PROOFS. The command word (30_encoding.md R62 to R68, R70): the decoder undoes the encoder (O1) and the encoder the
decoder (O2), the three kinds of word (O3, O4), SRST's many words (O8), and the assembler's formula (O5). -/

namespace Sys2Proof

/-! ### The fields of a packed word -/

section
variable (op : Byte) (sel : BitVec 16) (p : Nat) (d : Bool)

@[simp] theorem opField_packR : opField (packR op sel p d) = op := by
  refine BitVec.eq_of_getLsbD_eq fun k hk => ?_
  rw [opField, BitVec.getLsbD_extractLsb', packR_getLsbD]
  simp [hk]

@[simp] theorem dirField_packR : dirField (packR op sel p d) = d := by
  rw [dirField, packR_getLsbD]
  simp

@[simp] theorem selField_packR : selField (packR op sel p d) = sel := by
  refine BitVec.eq_of_getLsbD_eq fun k hk => ?_
  rw [selField, BitVec.getLsbD_extractLsb', packR_getLsbD]
  grind

@[simp] theorem shiftField_packR : shiftField (packR op sel p d) = p % 2 ^ 32 := by
  rw [← BitVec.toNat_ofNat, shiftField]
  refine congrArg BitVec.toNat (BitVec.eq_of_getLsbD_eq fun k hk => ?_)
  rw [BitVec.getLsbD_extractLsb', packR_getLsbD]
  grind

/-- Bits [15:9] of a format-R word are 0 (R62). -/
@[simp] theorem reservedField_packR : (packR op sel p d).extractLsb' 9 7 = 0#7 := by
  refine BitVec.eq_of_getLsbD_eq fun k hk => ?_
  rw [BitVec.getLsbD_extractLsb', packR_getLsbD]
  grind

end

/-- A word with bits [15:9] zero is packed from its own fields (R62). -/
theorem packR_fields {w : Word} (h : w.extractLsb' 9 7 = 0#7) :
    packR (opField w) (selField w) (shiftField w) (dirField w) = w := by
  have hzero : ∀ k, 9 ≤ k → k < 16 → w.getLsbD k = false := fun k hlow hhigh => by
    have := congrArg (·.getLsbD (k - 9)) h
    grind
  refine BitVec.eq_of_getLsbD_eq fun k hk => ?_
  rw [packR_getLsbD, shiftField, BitVec.ofNat_toNat, BitVec.setWidth_eq, opField, selField, dirField]
  grind

/-- A word with bits [63:8] zero is packed from its OP (R62). -/
theorem packZ_opField {w : Word} (h : w.extractLsb' 8 56 = 0#56) : packZ (opField w) = w := by
  have hzero : ∀ k, 8 ≤ k → k < 64 → w.getLsbD k = false := fun k hlow hhigh => by
    have := congrArg (·.getLsbD (k - 8)) h
    grind
  refine BitVec.eq_of_getLsbD_eq fun k hk => ?_
  rw [packZ_getLsbD, opField]
  grind

/-! ### The decoder -/

/-- Which word decodes to what (R64 to R68): SRST by OP alone, a format-Z or format-R word to the command packed from
its fields unless a reserved bit is set, every other word to nothing. -/
inductive DecodedFrom (w : Word) : Decoded → Prop
  | srst (hop : opField w = 0x01) : DecodedFrom w (.command .srst)
  | formatZ {i : Instr} (hop : opField w ∈ ([0x00, 0x10, 0x30] : List Byte)) (hpack : encode i = packZ (opField w))
      (hwf : i.wellFormed = true) : DecodedFrom w (decodeZ i w)
  | formatR {i : Instr} (hop : opField w ∈ ([0x20, 0x21, 0x22, 0x23] : List Byte))
      (hpack : encode i = packR (opField w) (selField w) (shiftField w) (dirField w)) (hwf : i.wellFormed = true) :
      DecodedFrom w (decodeR i w)
  | unassigned (hop : opField w ∉ ([0x00, 0x01, 0x10, 0x20, 0x21, 0x22, 0x23, 0x30] : List Byte)) :
      DecodedFrom w .illegalOpcode

theorem fitsUnsigned_iff {sel p : Nat} : fitsUnsigned sel p = true ↔ sel < 65536 ∧ p < 4294967296 := by
  simp [fitsUnsigned]

theorem fitsSigned_iff {l : Int} {p : Nat} :
    fitsSigned l p = true ↔ (-32768 ≤ l ∧ l ≤ 32767) ∧ p < 4294967296 := by
  simp [fitsSigned]

theorem fitsUnsigned_fields (w : Word) : fitsUnsigned (selField w).toNat (shiftField w) = true :=
  fitsUnsigned_iff.mpr ⟨(selField w).isLt, BitVec.isLt _⟩

theorem fitsSigned_fields (w : Word) : fitsSigned (selField w).toInt (shiftField w) = true :=
  fitsSigned_iff.mpr ⟨⟨BitVec.le_toInt _, Int.le_of_lt_add_one BitVec.toInt_lt⟩, BitVec.isLt _⟩

theorem decode_decodedFrom (w : Word) : DecodedFrom w (decode w) := by
  simp only [decode]
  split_ifs with hnop hsrst hgen hrotr hrotc hrota hrotd happly
  · exact .formatZ (by simp [hnop]) (by rw [hnop, encode]) rfl
  · exact .srst hsrst
  · exact .formatZ (by simp [hgen]) (by rw [hgen, encode]) rfl
  · exact .formatR (by simp [hrotr]) (by simp [hrotr, encode]) (fitsUnsigned_fields w)
  · exact .formatR (by simp [hrotc]) (by simp [hrotc, encode]) (fitsUnsigned_fields w)
  · exact .formatR (by simp [hrota]) (by simp [hrota, encode]) (fitsUnsigned_fields w)
  · exact .formatR (by simp [hrotd]) (by simp [hrotd, encode]) (fitsSigned_fields w)
  · exact .formatZ (by simp [happly]) (by rw [happly, encode]) rfl
  · exact .unassigned (by simp_all)

@[simp] theorem decodeZ_eq_command {i j : Instr} {w : Word} :
    decodeZ i w = .command j ↔ i = j ∧ w.extractLsb' 8 56 = 0#56 := by
  by_cases h : w.extractLsb' 8 56 = 0#56 <;> simp [decodeZ, h]

@[simp] theorem decodeR_eq_command {i j : Instr} {w : Word} :
    decodeR i w = .command j ↔ i = j ∧ w.extractLsb' 9 7 = 0#7 := by
  by_cases h : w.extractLsb' 9 7 = 0#7 <;> simp [decodeR, h]

@[simp] theorem decodeZ_eq_reservedBits {i : Instr} {w : Word} :
    decodeZ i w = .reservedBits ↔ w.extractLsb' 8 56 ≠ 0#56 := by
  by_cases h : w.extractLsb' 8 56 = 0#56 <;> simp [decodeZ, h]

@[simp] theorem decodeR_eq_reservedBits {i : Instr} {w : Word} :
    decodeR i w = .reservedBits ↔ w.extractLsb' 9 7 ≠ 0#7 := by
  by_cases h : w.extractLsb' 9 7 = 0#7 <;> simp [decodeR, h]

@[simp] theorem decodeZ_ne_illegalOpcode (i : Instr) (w : Word) : decodeZ i w ≠ .illegalOpcode := by
  by_cases h : w.extractLsb' 8 56 = 0#56 <;> simp [decodeZ, h]

@[simp] theorem decodeR_ne_illegalOpcode (i : Instr) (w : Word) : decodeR i w ≠ .illegalOpcode := by
  by_cases h : w.extractLsb' 9 7 = 0#7 <;> simp [decodeR, h]

/-! ### Decoding and encoding -/

theorem decode_packR_unsigned {sel p : Nat} (h : fitsUnsigned sel p = true) (d : Bool) :
    decode (packR 0x20 (BitVec.ofNat 16 sel) p d) = .command (.rotr sel p d) ∧
    decode (packR 0x21 (BitVec.ofNat 16 sel) p d) = .command (.rotc sel p d) ∧
    decode (packR 0x22 (BitVec.ofNat 16 sel) p d) = .command (.rota sel p d) := by
  obtain ⟨hsel, hp⟩ := fitsUnsigned_iff.mp h
  simp [decode, Nat.mod_eq_of_lt, hsel, hp]

theorem decode_packR_signed {l : Int} {p : Nat} (h : fitsSigned l p = true) (d : Bool) :
    decode (packR 0x23 (BitVec.ofInt 16 l) p d) = .command (.rotd l p d) := by
  obtain ⟨⟨hlow, hhigh⟩, hp⟩ := fitsSigned_iff.mp h
  have hl : (BitVec.ofInt 16 l).toInt = l := BitVec.toInt_ofInt_eq_self (by decide) (by omega) (by omega)
  simp [decode, Nat.mod_eq_of_lt, hl, hp]

/-- Settles O1: each field of the packed word is the operand it was packed from. -/
theorem decodeEncodeIsIdentity : Obligations.DecodeEncodeIsIdentity := by
  intro i hwf
  cases i with
  | rotr row p d => exact (decode_packR_unsigned hwf d).1
  | rotc col p d => exact (decode_packR_unsigned hwf d).2.1
  | rota k p d => exact (decode_packR_unsigned hwf d).2.2
  | rotd l p d => exact decode_packR_signed hwf d
  | _ => decide

/-- Settles O2: with no reserved bit set, a word is packed from the fields its command was read from. -/
theorem decodedWordIsItsEncoding : Obligations.DecodedWordIsItsEncoding := by
  intro w i hdec hsrst
  have h := decode_decodedFrom w
  generalize decode w = x at hdec h
  cases h with
  | srst hop => exact absurd (Decoded.command.inj hdec).symm hsrst
  | formatZ hop hpack hwf =>
    obtain ⟨rfl, hzero⟩ := decodeZ_eq_command.mp hdec
    exact ⟨hpack.trans (packZ_opField hzero), hwf⟩
  | formatR hop hpack hwf =>
    obtain ⟨rfl, hzero⟩ := decodeR_eq_command.mp hdec
    exact ⟨hpack.trans (packR_fields hzero), hwf⟩
  | unassigned hop => cases hdec

theorem Decoded.exists_command_iff {x : Decoded} :
    (∃ i, x = .command i) ↔ x ≠ .illegalOpcode ∧ x ≠ .reservedBits := by
  cases x <;> simp

/-- Settles O3: the format of OP says which bits are reserved. -/
theorem everyWordIsCommandIllegalOrReserved : Obligations.EveryWordIsCommandIllegalOrReserved := by
  intro w
  change (_ ↔ opField w ∉ _) ∧ (_ ↔ (opField w ∈ _ ∧ _) ∨ (opField w ∈ _ ∧ _)) ∧ _
  rw [← and_assoc]
  refine ⟨?_, Decoded.exists_command_iff⟩
  have h := decode_decodedFrom w
  generalize decode w = x at h
  cases h with
  | srst hop => simp [hop]
  | formatZ hop hpack hwf =>
    simp only [List.mem_cons, List.not_mem_nil, or_false] at hop
    rcases hop with hop | hop | hop <;> simp [hop]
  | formatR hop hpack hwf =>
    simp only [List.mem_cons, List.not_mem_nil, or_false] at hop
    rcases hop with hop | hop | hop | hop <;> simp [hop]
  | unassigned hop => simp_all

/-- Settles O4: the decoder is evaluated on each word. -/
theorem sampleWordsDecode : Obligations.SampleWordsDecode := by
  unfold Obligations.SampleWordsDecode
  decide

theorem decode_of_srst {w : Word} (h : opField w = 0x01) : decode w = .command .srst := by
  simp [decode, h]

/-- Settles O8: OP alone makes SRST, before any check. -/
theorem srstIsAlwaysTaken : Obligations.SrstIsAlwaysTaken :=
  ⟨fun _ s h => ⟨decode_of_srst h, Machine.submit_of_srst h s, s.afterReset, rfl⟩, rfl⟩

/-! ### The assembler's formula -/

theorem testBit_of_lt_two_pow {n w k : Nat} (hn : n < 2 ^ w) (hk : w ≤ k) : n.testBit k = false :=
  Nat.testBit_lt_two_pow (hn.trans_le (Nat.pow_le_pow_right (by decide) hk))

/-- The shifted operands of a rotation do not overlap (R62, R70). -/
theorem rotationWord_eq_packR {op sel p : Nat} (hop : op < 2 ^ 8) (hsel : sel < 2 ^ 16) (d : Bool) :
    Machine.rotationWord op sel p d = packR (BitVec.ofNat 8 op) (BitVec.ofNat 16 sel) p d := by
  have hopBits := fun k => testBit_of_lt_two_pow (k := k) hop
  have hselBits := fun k => testBit_of_lt_two_pow (k := k) hsel
  refine BitVec.eq_of_getLsbD_eq fun k hk => ?_
  simp only [Machine.rotationWord, packR_getLsbD, BitVec.getLsbD_ofNat, Nat.testBit_or, Nat.testBit_shiftLeft,
    Nat.testBit_bool_toNat]
  grind

/-- A diagonal's selector is written in two's complement (R63, R70). -/
theorem ofNat_emod_eq_ofInt (l : Int) : BitVec.ofNat 16 (l % 65536).toNat = BitVec.ofInt 16 l := by
  refine BitVec.eq_of_toNat_eq ?_
  rw [BitVec.toNat_ofNat, BitVec.toNat_ofInt]
  omega

/-- Settles O5: the selector of a diagonal is reduced to its 16 bits first, any other selector fits them. -/
theorem assemblerWordsAreEncodings : Obligations.AssemblerWordsAreEncodings := by
  intro i hwf
  cases i with
  | rotr row p d => exact rotationWord_eq_packR (by decide) (fitsUnsigned_iff.mp hwf).1 d
  | rotc col p d => exact rotationWord_eq_packR (by decide) (fitsUnsigned_iff.mp hwf).1 d
  | rota k p d => exact rotationWord_eq_packR (by decide) (fitsUnsigned_iff.mp hwf).1 d
  | rotd l p d =>
    rw [encode, ← ofNat_emod_eq_ofInt]
    exact rotationWord_eq_packR (by decide) (by omega) d
  | _ => rfl

end Sys2Proof
end

section
/-! PROOFS. Host programs (30_encoding.md R70, R71): what the assembler emits reaches a register or a byte (20_memory.md
R45), and which lines it refuses (O60). -/

namespace Sys2Proof.Machine

section
variable {p : Params}

/-! ### Assembled accesses reach their targets -/

/-- The turn makes no malformed access (R45). -/
def Turn.Reaches (p : Params) (t : Turn) : Prop := ∀ x, t = .host x → resolve p x.addr x.width ≠ none

@[simp] theorem reaches_unit : Turn.unit.Reaches p := nofun

theorem reaches_host {x : Access} {t : Target} (h : resolve p x.addr x.width = some t) : (Turn.host x).Reaches p := by
  rintro y ⟨⟩
  simp [h]

@[simp] theorem reaches_portWrite (r : Reg) (v : Word) : (portWrite p r v).Reaches p :=
  reaches_host (resolve_eq_reg.mpr ⟨rfl, rfl⟩)

@[simp] theorem reaches_portRead (r : Reg) : (portRead p r).Reaches p :=
  reaches_host (resolve_eq_reg.mpr ⟨rfl, rfl⟩)

theorem reaches_of_fieldWrite {r : Reg} {fits : Bool} {v : Nat} {ts : List Turn} (h : fieldWrite p r fits v = some ts) :
    ∀ t ∈ ts, t.Reaches p := by
  unfold fieldWrite at h
  split_ifs at h
  cases h
  simp

theorem reaches_of_withinCapacity {fits : Prop} [Decidable fits] {ts us : List Turn}
    (h : withinCapacity (decide fits) us = some ts) (hus : fits → ∀ t ∈ us, t.Reaches p) : ∀ t ∈ ts, t.Reaches p := by
  obtain ⟨hfits, rfl⟩ : fits ∧ us = ts := by simpa [withinCapacity] using h
  exact hus hfits

section
variable (hp : p.legal = true)
include hp

theorem reaches_portWriteBuf {a : Nat} (ha : a < p.bufBytes) (v : Byte) : (portWriteBuf p a v).Reaches p :=
  reaches_host ((resolve_eq_buf hp).mpr ⟨rfl, ha, rfl⟩)

theorem reaches_portReadBuf {a : Nat} (ha : a < p.bufBytes) : (portReadBuf p a).Reaches p :=
  reaches_host ((resolve_eq_buf hp).mpr ⟨rfl, ha, rfl⟩)

theorem reaches_portWriteStream {a : Nat} (ha : a < p.streamBytes) (v : Byte) : (portWriteStream p a v).Reaches p :=
  reaches_host ((resolve_eq_stream hp).mpr ⟨rfl, ha, rfl⟩)

theorem reaches_portReadStream {a : Nat} (ha : a < p.streamBytes) : (portReadStream p a).Reaches p :=
  reaches_host ((resolve_eq_stream hp).mpr ⟨rfl, ha, rfl⟩)

theorem reaches_blockWrites {a : Nat} {vs : List Byte} (h : a + vs.length ≤ p.bufBytes) :
    ∀ t ∈ blockWrites p a vs, t.Reaches p := by
  induction vs generalizing a with
  | nil => simp [blockWrites]
  | cons v vs ih =>
    rw [List.length_cons] at h
    rw [blockWrites, List.forall_mem_cons]
    exact ⟨reaches_portWriteBuf hp (by omega) v, ih (by omega)⟩

theorem reaches_assemble {x : Line} {ts : List Turn} (h : assemble p x = some ts) : ∀ t ∈ ts, t.Reaches p := by
  cases x with
  | wr | rd | clrerr | key | enc | dec => cases h; simp
  | slen | geom | rounds | wts | cur => exact reaches_of_fieldWrite h
  | command i =>
    simp only [assemble, Option.ite_none_right_eq_some, Option.some.injEq] at h
    obtain ⟨-, rfl⟩ := h
    simp
  | poll n =>
    cases h
    simp +contextual [or_imp]
  | wrb a v =>
    exact reaches_of_withinCapacity h fun ha => List.forall_mem_singleton.mpr (reaches_portWriteBuf hp ha v)
  | rdb a => exact reaches_of_withinCapacity h fun ha => List.forall_mem_singleton.mpr (reaches_portReadBuf hp ha)
  | wrs a v =>
    exact reaches_of_withinCapacity h fun ha => List.forall_mem_singleton.mpr (reaches_portWriteStream hp ha v)
  | rds a => exact reaches_of_withinCapacity h fun ha => List.forall_mem_singleton.mpr (reaches_portReadStream hp ha)
  | wrblk a vs => exact reaches_of_withinCapacity h (reaches_blockWrites hp)

theorem reaches_assembleProgram {xs : List Line} {ts : List Turn} (h : assembleProgram p xs = some ts) :
    ∀ t ∈ ts, t.Reaches p := by
  induction xs generalizing ts with
  | nil => cases h; simp
  | cons x xs ih =>
    unfold assembleProgram at h
    split at h
    · rename_i hx hxs
      cases h
      exact List.forall_mem_append.mpr ⟨reaches_assemble hp hx, ih hxs⟩
    · cases h

end

/-! ### Which lines are refused -/

theorem fieldWrite_decide (r : Reg) {fits : Prop} [Decidable fits] {v w : Nat} (hv : fits → v = w) :
    fieldWrite p r (decide fits) v =
      if fits then some [.host ⟨p.unitBase + r.offset, .b64, .write (BitVec.ofNat 64 w)⟩] else none := by
  by_cases h : fits
  · simp [fieldWrite, portWrite, h, hv h]
  · simp [fieldWrite, h]

theorem withinCapacity_decide (fits : Prop) [Decidable fits] (ts : List Turn) :
    withinCapacity (decide fits) ts = if fits then some ts else none := by
  simp [withinCapacity]

end

theorem shiftLeft_or_eq_mul_add {i m : Nat} (hm : m < 2 ^ i) (n : Nat) : n <<< i ||| m = n * 2 ^ i + m := by
  rw [← Nat.shiftLeft_add_eq_or_of_lt hm, Nat.shiftLeft_eq]

/-- Settles O60: each emitted turn reaches its register or byte, and each refusal is the bound of its field or
memory. -/
theorem assembledLinesReachTheirTargets : Obligations.AssembledLinesReachTheirTargets := by
  intro p hp
  refine ⟨fun xs ts x h hx => reaches_assembleProgram hp h _ hx x rfl,
    fun m n => fieldWrite_decide .geom fun h => shiftLeft_or_eq_mul_add h.1 n,
    fun n => fieldWrite_decide .rounds fun _ => rfl,
    fun a b g => fieldWrite_decide .weights fun h => ?_,
    fun l => fieldWrite_decide .streamLen fun _ => rfl,
    fun v => fieldWrite_decide .cursor fun _ => rfl,
    fun _ _ => withinCapacity_decide _ _, fun _ => withinCapacity_decide _ _,
    fun _ _ => withinCapacity_decide _ _, fun _ => withinCapacity_decide _ _⟩
  obtain ⟨ha, hb, -⟩ := h
  rw [Nat.or_assoc, shiftLeft_or_eq_mul_add ha, shiftLeft_or_eq_mul_add (by omega)]
  omega

end Sys2Proof.Machine
end

section
/-! PROOFS. GEN (40_bitgen.md R72 to R83): its checks (O39), the byte of an iterate (O36), and what the loop writes
(O38), which the key, the length and GEN_EMIT_X0 determine (O40). -/

namespace Sys2Proof.Machine

/-! ### The checks -/

/-- A command whose check fails raises that error at the CMD write and at completion (R121, R123, log 8). -/
theorem checkFails_of_commandCheck {i : Instr} {s : State} {c : ErrorCode} (h : commandCheck i s = some c) :
    CheckFails i s c.bits := by
  refine ⟨fun w hdec herr hidle => submit_of_check_fails hdec herr hidle h, ?_⟩
  rw [exec_of_check_fails h, State.raise_eq]
  rfl

theorem validKey_eq_false {x0 mu : Word} :
    validKey x0 mu = false ↔ x0 = 0 ∨ 0x3FEFFFFFFFFFFFFF < x0.toNat ∨ mu = 0 ∨ 0x4010000000000000 < mu.toNat := by
  rw [validKey, decide_eq_false_iff_not, BitVec.toNat_eq, BitVec.toNat_eq]
  simp only [BitVec.toNat_zero, BitVec.ofNat_eq_ofNat]
  omega

/-- Settles O39: each check of GEN, when it is the first to fail, names its error. -/
theorem genChecksInOrder : Obligations.GenChecksInOrder := by
  intro s
  refine ⟨fun hlen => checkFails_of_commandCheck (c := .streamRange) (if_pos (by omega)), fun hlo hhi hkey => ?_⟩
  refine checkFails_of_commandCheck (c := .degenerateKey) ((if_neg (by omega)).trans (if_pos ?_))
  exact validKey_eq_false.mpr hkey

/-! ### The byte of an iterate -/

/-- n doublings of a fraction f append to b the n first bits of f (R77). -/
theorem extractBits_eq (n b : Nat) {f : Nat} (hf : f < 2 ^ minExp) :
    extractBits n f b = b * 2 ^ n + f * 2 ^ n / 2 ^ minExp := by
  induction n generalizing f b with
  | zero => simp [extractBits, Nat.div_eq_of_lt hf]
  | succ n ih =>
    have hone : 0 < 2 ^ minExp := by positivity
    rw [extractBits]
    generalize 2 ^ minExp = one at *
    have hdouble : f * 2 ^ (n + 1) = 2 * f * 2 ^ n := by ring
    split_ifs with h
    · obtain ⟨r, hr⟩ := Nat.exists_eq_add_of_le' h
      rw [hdouble, hr, Nat.one_mul, Nat.add_sub_cancel, ih _ (by omega), Nat.add_mul r, Nat.add_mul_div_left _ _ hone]
      ring
    · rw [hdouble, Nat.zero_mul, Nat.sub_zero, Nat.add_zero, ih _ (by omega)]
      ring

theorem byteOf_toNat (x : Word) : (byteOf x).toNat = fMag x % 2 ^ minExp * 256 / 2 ^ minExp := by
  have hfrac : fMag x % 2 ^ minExp < 2 ^ minExp := Nat.mod_lt _ (by positivity)
  have hbyte : fMag x % 2 ^ minExp * 256 / 2 ^ minExp < 256 :=
    Nat.div_lt_of_lt_mul (Nat.mul_lt_mul_of_pos_right hfrac (by decide))
  rw [byteOf, extractBits_eq 8 0 hfrac, Nat.zero_mul, Nat.zero_add, BitVec.toNat_ofNat]
  exact Nat.mod_eq_of_lt hbyte

theorem fMag_oneWord : fMag oneWord = 2 ^ minExp := by decide +kernel

/-- Settles O36: each doubling emits the next bit of the fraction, and 1.0 has fraction 0. -/
theorem byteIsFloorOfScaledFraction : Obligations.ByteIsFloorOfScaledFraction := by
  refine ⟨byteOf_toNat, BitVec.eq_of_toNat_eq ?_⟩
  rw [byteOf_toNat, fMag_oneWord]
  simp

/-! ### The loop -/

theorem State.iterate_eq (s : State) (k : Nat) : s.iterate k = (logistic s.keyMu)^[k] s.firstIterate := by
  induction k with
  | zero => rfl
  | succ k ih => rw [Function.iterate_succ_apply', ← ih, State.iterate]

theorem genLoop_of_outside {mu x : Word} (h : outsideUnit x = true) (n : Nat) :
    genLoop mu (n + 1) x = { bytes := [], aborted := true } := by
  simp [genLoop, h]

theorem genLoop_of_inside {mu x : Word} (h : outsideUnit x = false) (n : Nat) :
    genLoop mu (n + 1) x =
      { bytes := byteOf x :: (genLoop mu n (logistic mu x)).bytes
        aborted := (genLoop mu n (logistic mu x)).aborted } := by
  simp [genLoop, h]

/-- The loop stops early exactly on an iterate outside [0, 1] (R80). -/
theorem genLoop_aborted_iff {mu : Word} {n : Nat} {x : Word} :
    (genLoop mu n x).aborted = true ↔ ∃ j, j < n ∧ outsideUnit ((logistic mu)^[j] x) = true := by
  induction n generalizing x with
  | zero => simp [genLoop]
  | succ n ih =>
    cases hx : outsideUnit x with
    | true => simpa [genLoop_of_outside hx] using ⟨0, by simp, hx⟩
    | false =>
      rw [genLoop_of_inside hx, ih, Nat.exists_lt_succ_left]
      simp [hx]

theorem genLoop_getElem?_of_inside {mu : Word} {n k : Nat} {x : Word} (hk : k < n)
    (h : ∀ j, j ≤ k → outsideUnit ((logistic mu)^[j] x) = false) :
    (genLoop mu n x).bytes[k]? = some (byteOf ((logistic mu)^[k] x)) := by
  induction n generalizing k x with
  | zero => simp at hk
  | succ n ih =>
    have hx : outsideUnit x = false := h 0 (Nat.zero_le k)
    rw [genLoop_of_inside hx]
    cases k with
    | zero => rfl
    | succ k => exact ih (by omega) fun j hj => h (j + 1) (by omega)

theorem genLoop_getElem?_of_outside {mu : Word} {n k j : Nat} {x : Word} (hj : j ≤ k)
    (h : outsideUnit ((logistic mu)^[j] x) = true) : (genLoop mu n x).bytes[k]? = none := by
  induction n generalizing k j x with
  | zero => rfl
  | succ n ih =>
    cases hx : outsideUnit x with
    | true => rw [genLoop_of_outside hx]; rfl
    | false =>
      rw [genLoop_of_inside hx]
      cases j with
      | zero => cases hx.symm.trans h
      | succ j =>
        obtain ⟨k, rfl⟩ : ∃ k', k = k' + 1 := ⟨k - 1, by omega⟩
        exact ih (by omega : j ≤ k) h

theorem State.genRun_aborted_iff {s : State} :
    s.genRun.aborted = true ↔ ∃ j, j < (s.len + 7) / 8 ∧ outsideUnit (s.iterate j) = true := by
  simp only [State.iterate_eq]
  exact genLoop_aborted_iff

/-! ### The command -/

theorem Memory.read_writeFrom_zero (m : Memory) (bs : List Byte) (k : Nat) :
    (m.writeFrom 0 bs).read k = bs[k]?.or (m.read k) := by
  rw [Memory.read_writeFrom]
  split_ifs with h
  · simp [List.getElem?_eq_getElem (show k < bs.length by omega)]
  · simp [List.getElem?_eq_none (show bs.length ≤ k by omega)]

/-- What GEN leaves when its checks pass: the bytes of the loop from byte 0 on, NUMERIC_RANGE if the loop stopped early
and no earlier error stands (R76, R80, R122), and PENDING none. -/
theorem exec_gen_of_ready {s : State} (h : s.GenReady) :
    exec .gen s = .next
      { s with
        stream := s.stream.writeFrom 0 s.genRun.bytes
        err := s.err || s.genRun.aborted
        errCode := if s.genRun.aborted && !s.err then 0x20 else s.errCode
        pending := none } := by
  have hcheck := genCheck_eq_none.mpr h
  show execGen s = _
  obtain ⟨c, hc, -⟩ | ⟨-, ha, hexec⟩ | ⟨-, ha, hexec⟩ := execGen_cases s
  · cases hcheck.symm.trans hc
  · simp [hexec, ha, State.finish, State.setPending, State.setStream]
  · cases herr : s.err <;>
      simp [hexec, ha, herr, State.raise_eq, State.setError, ErrorCode.bits, State.finish, State.setPending,
        State.setStream]

/-- Settles O38: the loop has a byte for each iterate up to the first one outside [0, 1], and no other. -/
theorem genWritesTheIterates : Obligations.GenWritesTheIterates := by
  intro s hready
  refine ⟨_, exec_gen_of_ready hready, rfl, fun k hk hin => ?_, fun k hout => ?_, fun hin => ?_, fun hout => ?_⟩
  · simp only [State.iterate_eq] at hin ⊢
    have hbyte : s.genRun.bytes[k]? = _ := genLoop_getElem?_of_inside hk hin
    rw [Memory.read_writeFrom_zero, hbyte, Option.some_or]
  · have hnone : s.genRun.bytes[k]? = none := by
      rcases hout with hk | ⟨j, hj, hout⟩
      · exact List.getElem?_eq_none ((genLoop_length_le ..).trans hk)
      · exact genLoop_getElem?_of_outside hj (s.iterate_eq j ▸ hout)
    rw [Memory.read_writeFrom_zero, hnone, Option.none_or]
  · have hruns : s.genRun.aborted = false := by
      rw [← Bool.not_eq_true, State.genRun_aborted_iff]
      rintro ⟨j, hj, hout⟩
      exact absurd hout (by simp [hin j hj])
    simp [hruns]
  · cases herr : s.err <;> simp [State.genRun_aborted_iff.mpr hout]

/-- The loop reads KEY_X0, KEY_MU, L and GEN_EMIT_X0 and nothing else (R72). -/
theorem State.genRun_congr {s s' : State} (hx0 : s.keyX0 = s'.keyX0) (hmu : s.keyMu = s'.keyMu) (hlen : s.len = s'.len)
    (hemit : s.params.genEmitX0 = s'.params.genEmitX0) : s.genRun = s'.genRun := by
  simp only [State.genRun, State.genBytes, State.firstIterate, hx0, hmu, hlen, hemit]

/-- Settles O40: both commands run the same loop, which decides STATUS and, where it ends, every byte below NB. -/
theorem genIsDeterministic : Obligations.GenIsDeterministic := by
  intro s s' hready hready' hx0 hmu hlen hemit herr herr' hcode
  have hrun := State.genRun_congr hx0 hmu hlen hemit
  refine ⟨_, _, exec_gen_of_ready hready, exec_gen_of_ready hready', ?_, fun hok k hk => ?_⟩
  · simp [State.readReg, State.statusWord, State.busy, hrun, herr, herr', hcode]
  · have hends : s.genRun.aborted = false := by simpa [herr] using hok
    have hlength : s.genRun.bytes.length = (s.len + 7) / 8 := genLoop_length _ _ _ hends
    have hbyte : s.genRun.bytes[k]? = some (s.genRun.bytes[k]'(hlength ▸ hk)) := List.getElem?_eq_getElem _
    simp only [Memory.read_writeFrom_zero, ← hrun, hbyte, Option.some_or]

/-- Settles O41: both iterates lie in [0, 1], so GEN writes their bytes. -/
theorem genWorkedExample : Obligations.GenWorkedExample := by
  have hx1 : logistic 0x400FFFCB923A29C7 0x3FB999999999999A = 0x3FD70A17B0F6AD71 := by decide +kernel
  have hx2 : logistic 0x400FFFCB923A29C7 0x3FD70A17B0F6AD71 = 0x3FED7D79D34BC300 := by decide +kernel
  refine ⟨hx1, hx2, fun s hx0 hmu hslen hemit hmax => ?_⟩
  have hlen : s.len = 16 := by rw [State.len, hslen]; decide
  have hready : s.GenReady := ⟨by omega, by rw [hx0, hmu]; decide⟩
  have hfirst : s.iterate 0 = 0x3FD70A17B0F6AD71 := by
    simp only [State.iterate, State.firstIterate, hemit, hx0, hmu, hx1, Bool.false_eq_true, if_false]
  have hsecond : s.iterate 1 = 0x3FED7D79D34BC300 := by
    rw [State.iterate, hfirst, hmu, hx2]
  have hinside : ∀ j, j < (s.len + 7) / 8 → outsideUnit (s.iterate j) = false := by
    intro j hj
    obtain rfl | rfl : j = 0 ∨ j = 1 := by omega
    · rw [hfirst]; decide
    · rw [hsecond]; decide
  obtain ⟨t, ht, -, hbytes, -, hok, -⟩ := genWritesTheIterates s hready
  refine ⟨t, ht, ?_, ?_, (hok hinside).1⟩
  · rw [hbytes 0 (by omega) fun j hj => hinside j (by omega), hfirst]
    decide +kernel
  · rw [hbytes 1 (by omega) fun j hj => hinside j (by omega), hsecond]
    decide +kernel

end Sys2Proof.Machine
end

section
/-! PROOFS. The logistic step in binary64 keeps [0, 1] for a valid key (40_bitgen.md R73, R74, R80; O37). With X, M the
magnitudes of x and mu, fl(mu·x) ≤ 4·X, and 4·X · fl(1 − x) exceeds 1 by less than half a unit of the last place of 1,
because fl(1 − x) is exact for x ≥ 1/2 and off by at most 2^−54 otherwise. -/

namespace Sys2Proof.Machine

/-! ### Magnitudes in the order of their encodings -/

/-- The next encoding lies one unit of the last place higher. -/
theorem bitsMag_succ (b : Nat) : bitsMag (b + 1) = bitsMag b + 2 ^ (b / 2 ^ 52 - 1) := by
  obtain ⟨s, m, rfl, hm, hs, hdiv⟩ :
      ∃ s m, b = s * 2 ^ 52 + m ∧ m < 2 ^ 53 ∧ (s = 0 ∨ 2 ^ 52 ≤ m) ∧ b / 2 ^ 52 - 1 = s :=
    ⟨b / 2 ^ 52 - 1, b - (b / 2 ^ 52 - 1) * 2 ^ 52, by omega, by omega, by omega, rfl⟩
  rw [hdiv, Nat.add_assoc, bitsMag_of_significand hm (by omega), bitsMag_of_significand hm.le hs]
  exact Nat.succ_mul m _

theorem bitsMag_strictMono : StrictMono bitsMag := strictMono_nat_of_lt_succ fun b => by
  rw [bitsMag_succ]
  exact Nat.lt_add_of_pos_right (by positivity)

/-- Doubling is exact in binary64 (R77). -/
theorem exists_bitsMag_eq_two_mul (b : Nat) : ∃ c, bitsMag c = 2 * bitsMag b := by
  by_cases hb : b < 2 ^ 52
  · have hdouble := bitsMag_of_significand (s := 0) (m := 2 * b) (by omega) (.inl rfl)
    have hsame := bitsMag_of_significand (s := 0) (m := b) (by omega) (.inl rfl)
    rw [Nat.zero_mul, Nat.zero_add, pow_zero, Nat.mul_one] at hdouble hsame
    exact ⟨2 * b, by rw [hdouble, hsame]⟩
  · refine ⟨b + 2 ^ 52, ?_⟩
    unfold bitsMag
    rw [if_neg (by omega), if_neg (by omega), show (b + 2 ^ 52) / 2 ^ 52 - 1 = b / 2 ^ 52 - 1 + 1 by omega,
      Nat.add_mod_right, pow_succ]
    ring

/-- The encoding of 1.0 without sign. -/
theorem bitsMag_one : bitsMag (1023 * 2 ^ 52) = 2 ^ minExp := by decide +kernel

theorem bitsMag_four : bitsMag (1025 * 2 ^ 52) = 4 * 2 ^ minExp := by decide +kernel

/-! ### Where a rounded magnitude lies -/

section
variable {n k b : Nat}

theorem roundShift_le {e : Nat} (he : e ≠ 0) (h : n < 2 ^ e) : roundShift n k ≤ max k (e - 53) := by
  have hlog := Nat.log_lt_of_lt_pow' he h
  rw [roundShift, Nat.log2_eq_log_two]
  omega

theorem roundMag_lt_infBits {e : Nat} (h : n ≤ 2 ^ e) (he : e ≤ 2096 + k) : roundMag n k < infBits := by
  have hshift : roundShift n k ≤ max k (e + 1 - 53) :=
    roundShift_le (Nat.succ_ne_zero e) (h.trans_lt (Nat.pow_lt_pow_right (by decide) (Nat.lt_succ_self e)))
  have hquot := roundQuot_le_of_shift n k
  have hinf : infBits = 2047 * 2 ^ 52 := rfl
  rw [roundMag_eq]
  omega

/-- Rounding does not pass a binary64 value. -/
theorem bitsMag_roundMag_le (hfin : roundMag n k < infBits) (h : n ≤ bitsMag b * 2 ^ k) :
    bitsMag (roundMag n k) ≤ bitsMag b := by
  have hnear := (magDist_roundMag_le hfin b).1
  unfold magDist at hnear
  zify at h
  rw [abs_of_nonneg (a := (bitsMag b : Int) * 2 ^ k - n) (by linarith)] at hnear
  have hle : bitsMag (roundMag n k) * 2 ^ k ≤ bitsMag b * 2 ^ k := by
    zify
    linarith [le_abs_self ((bitsMag (roundMag n k) : Int) * 2 ^ k - n)]
  exact Nat.le_of_mul_le_mul_right hle (by positivity)

/-- A magnitude below the middle of a binary64 value and the next rounds to no more than that value. -/
theorem roundMag_le_of_lt_middle (hfin : roundMag n k < infBits) (h : 2 * n < (bitsMag b + bitsMag (b + 1)) * 2 ^ k) :
    roundMag n k ≤ b := by
  by_contra hlt
  have hnext : bitsMag (b + 1) * 2 ^ k ≤ bitsMag (roundMag n k) * 2 ^ k :=
    Nat.mul_le_mul_right _ (bitsMag_strictMono.monotone (by omega))
  have hsucc : bitsMag b * 2 ^ k < bitsMag (b + 1) * 2 ^ k :=
    Nat.mul_lt_mul_of_pos_right (bitsMag_strictMono (Nat.lt_succ_self b)) (by positivity)
  have hnear := (magDist_roundMag_le hfin b).1
  unfold magDist at hnear
  rw [Nat.add_mul] at h
  zify at h hnext hsucc
  simp only [abs_eq_max_neg] at hnear
  omega

/-- Rounding moves a magnitude by at most half of the unit it is rounded to. -/
theorem two_mul_bitsMag_roundMag_le (hfin : roundMag n k < infBits) :
    2 * (bitsMag (roundMag n k) * 2 ^ k) ≤ 2 * n + 2 ^ roundShift n k := by
  have hhalf := (multipleDist_roundQuot_half (n := n) (show 0 < 2 ^ roundShift n k by positivity)).1
  rw [bitsMag_roundMag hfin]
  unfold multipleDist at hhalf
  zify
  push_cast at hhalf
  linarith [le_abs_self ((roundQuot n (2 ^ roundShift n k) : Int) * 2 ^ roundShift n k - n)]

/-- A multiple of the unit it is rounded to stays as it is. -/
theorem bitsMag_roundMag_of_dvd (hfin : roundMag n k < infBits) (h : 2 ^ roundShift n k ∣ n) :
    bitsMag (roundMag n k) * 2 ^ k = n := by
  have hunit : 0 < 2 ^ roundShift n k := by positivity
  rw [bitsMag_roundMag hfin, roundQuot, Nat.mod_eq_zero_of_dvd h, if_neg (by omega), Nat.add_zero, Nat.div_mul_cancel h]

end

/-! ### One step -/

theorem roundMag_mul_lt_infBits {m n : Nat} (hm : m ≤ 4 * 2 ^ minExp) (hn : n ≤ 2 ^ minExp) :
    roundMag (m * n) minExp < infBits := by
  refine roundMag_lt_infBits (e := 2 + minExp + minExp) ((Nat.mul_le_mul hm hn).trans_eq ?_) (by decide)
  ring

theorem roundMag_one_sub_lt_infBits (m : Nat) : roundMag (2 ^ minExp - m) 0 < infBits :=
  roundMag_lt_infBits (e := minExp) (Nat.sub_le ..) (by decide)

/-- The unit to which 1 − x is rounded for x > 0, m being the magnitude of x. -/
theorem roundShift_one_sub {m : Nat} (hpos : 0 < m) : roundShift (2 ^ minExp - m) 0 ≤ 1021 :=
  roundShift_le (e := minExp) (by decide) (Nat.sub_lt (by positivity) hpos)

/-- With a ≤ 4·x and b at most d/2 above one − x, the product a·b is below the middle of one and one + e. -/
theorem product_below_middle {a b d e one x : Nat} (ha : a ≤ 4 * x) (hb : 2 * b + 2 * x ≤ 2 * one + d)
    (hd : 4 * x * d < e * one) : 2 * (a * b) < (one + (one + e)) * one := by
  have hab : a * b ≤ 4 * x * b := Nat.mul_le_mul_right b ha
  have hxb : 4 * x * (2 * b + 2 * x) ≤ 4 * x * (2 * one + d) := Nat.mul_le_mul_left _ hb
  zify at *
  nlinarith [sq_nonneg (2 * (x : Int) - one)]

/-- x lies in [0, 1] and is not −0. -/
structure InUnit (x : Word) : Prop where
  sign : fSign x = false
  bits : fBits x ≤ 1023 * 2 ^ 52

section
variable {x mu : Word} (hx : InUnit x)
include hx

theorem InUnit.finite : fBits x < infBits := hx.bits.trans_lt (by decide)

theorem InUnit.outsideUnit : outsideUnit x = false := by
  simpa [Machine.outsideUnit, fIsNaN_of_finite hx.finite, hx.sign, oneWord] using hx.bits

theorem InUnit.fMag_le : fMag x ≤ 2 ^ minExp :=
  bitsMag_one ▸ bitsMag_strictMono.monotone hx.bits

/-- 1 − x before it is rounded. -/
theorem InUnit.fVal_one_sub : fVal oneWord - fVal x = ((2 ^ minExp - fMag x : Nat) : Int) := by
  have hone : fVal oneWord = (2 ^ minExp : Nat) := congrArg Nat.cast fMag_oneWord
  rw [hone, fVal, hx.sign, if_neg Bool.false_ne_true, Nat.cast_sub hx.fMag_le]

theorem InUnit.fBits_one_sub : fBits (flSub oneWord x) = roundMag (2 ^ minExp - fMag x) 0 := by
  rw [fBits_flSub (by decide) hx.finite, hx.fVal_one_sub, Int.natAbs_natCast]

theorem InUnit.fSign_one_sub : fSign (flSub oneWord x) = false := by
  rw [flSub_of_finite (by decide) hx.finite, fSign_fPack _ (roundMag_le ..), hx.fVal_one_sub]
  split_ifs
  · rfl
  · exact decide_eq_false (by omega)

theorem InUnit.one_sub_finite : fBits (flSub oneWord x) < infBits := by
  rw [hx.fBits_one_sub]
  exact roundMag_one_sub_lt_infBits _

theorem InUnit.fMag_one_sub_le : fMag (flSub oneWord x) ≤ 2 ^ minExp := by
  rw [fMag_eq_bitsMag, hx.fBits_one_sub]
  refine (bitsMag_roundMag_le (roundMag_one_sub_lt_infBits _) ?_).trans_eq bitsMag_one
  rw [bitsMag_one, pow_zero, Nat.mul_one]
  exact Nat.sub_le ..

/-- fl(1 − x) exceeds 1 − x by at most d/2, where x · d is below 2^−54: d = 0 where 1 − x is a binary64 value itself,
and one unit of the last place otherwise, when x < 1/2. -/
theorem InUnit.one_sub_excess :
    ∃ d, 2 * fMag (flSub oneWord x) + 2 * fMag x ≤ 2 * 2 ^ minExp + d ∧ 4 * fMag x * d < 2 ^ 1022 * 2 ^ minExp := by
  rcases Nat.eq_zero_or_pos (fMag x) with hzero | hpos
  · have hle := hx.fMag_one_sub_le
    exact ⟨0, by omega, by positivity⟩
  have hle := hx.fMag_le
  have hshift := roundShift_one_sub hpos
  have hfin := roundMag_one_sub_lt_infBits (fMag x)
  rw [fMag_eq_bitsMag (flSub oneWord x), hx.fBits_one_sub]
  rcases dvd_bitsMag_or_lt (fBits x) 1021 with hdvd | hlow
  · have hunit : 2 ^ roundShift (2 ^ minExp - fMag x) 0 ∣ 2 ^ minExp - fMag x :=
      Nat.dvd_sub (pow_dvd_pow 2 (hshift.trans (by decide))) ((pow_dvd_pow 2 hshift).trans hdvd)
    have hexact := bitsMag_roundMag_of_dvd hfin hunit
    exact ⟨0, by omega, by positivity⟩
  · refine ⟨2 ^ 1021, ?_, ?_⟩
    · have hhalf := two_mul_bitsMag_roundMag_le hfin
      have hunit : 2 ^ roundShift (2 ^ minExp - fMag x) 0 ≤ 2 ^ 1021 := pow_le_pow_right₀ one_le_two hshift
      omega
    · calc 4 * fMag x * 2 ^ 1021 < 4 * (2 ^ 52 * 2 ^ 1021) * 2 ^ 1021 :=
            Nat.mul_lt_mul_of_pos_right (Nat.mul_lt_mul_of_pos_left hlow (by decide)) (by positivity)
        _ = 2 ^ 1022 * 2 ^ minExp := by decide +kernel

variable (hmu : fBits mu ≤ 1025 * 2 ^ 52)
include hmu

/-- fl(mu·x) does not pass 4·x, a binary64 value. -/
theorem InUnit.four_mul : fBits (flMul mu x) < infBits ∧ fMag (flMul mu x) ≤ 4 * fMag x := by
  have hfour : fMag mu ≤ 4 * 2 ^ minExp := bitsMag_four ▸ bitsMag_strictMono.monotone hmu
  obtain ⟨c, hc⟩ := exists_bitsMag_eq_two_mul (fBits x)
  obtain ⟨c', hc'⟩ := exists_bitsMag_eq_two_mul c
  have hproduct : fMag mu * fMag x ≤ bitsMag c' * 2 ^ minExp := by
    rw [hc', hc, ← fMag_eq_bitsMag]
    calc fMag mu * fMag x ≤ 4 * 2 ^ minExp * fMag x := Nat.mul_le_mul_right _ hfour
      _ = 2 * (2 * fMag x) * 2 ^ minExp := by ring
  have hfin : roundMag (fMag mu * fMag x) minExp < infBits := roundMag_mul_lt_infBits hfour hx.fMag_le
  rw [fMag_eq_bitsMag, fBits_flMul (hmu.trans_lt (by decide)) hx.finite]
  refine ⟨hfin, (bitsMag_roundMag_le hfin hproduct).trans_eq ?_⟩
  rw [hc', hc, ← fMag_eq_bitsMag]
  ring

/-- The logistic step keeps [0, 1] (R73, R80). -/
theorem InUnit.logistic (hsign : fSign mu = false) : InUnit (logistic mu x) := by
  obtain ⟨hfin, hle⟩ := hx.four_mul hmu
  obtain ⟨d, hexcess, hsmall⟩ := hx.one_sub_excess
  have hbits := fBits_flMul hfin hx.one_sub_finite
  refine ⟨?_, ?_⟩
  · rw [Machine.logistic, fSign_flMul hfin hx.one_sub_finite, fSign_flMul (hmu.trans_lt (by decide)) hx.finite, hsign,
      hx.sign, hx.fSign_one_sub]
    rfl
  · rw [Machine.logistic, hbits]
    have hfour : fMag (flMul mu x) ≤ 4 * 2 ^ minExp := hle.trans (Nat.mul_le_mul_left _ hx.fMag_le)
    refine roundMag_le_of_lt_middle (roundMag_mul_lt_infBits hfour hx.fMag_one_sub_le) ?_
    rw [bitsMag_succ, bitsMag_one, show 1023 * 2 ^ 52 / 2 ^ 52 - 1 = 1022 from rfl]
    exact product_below_middle hle hexcess hsmall

end

/-! ### Every iterate -/

section
variable {x0 mu : Word}

theorem fSign_of_lt {x : Word} (h : x.toNat < 2 ^ 63) : fSign x = false := by
  rw [fSign, ← BitVec.msb_eq_getLsbD_last, BitVec.msb_eq_decide]
  exact decide_eq_false (by omega)

theorem fBits_of_lt {x : Word} (h : x.toNat < 2 ^ 63) : fBits x = x.toNat := Nat.mod_eq_of_lt h

theorem InUnit.of_validKey (h : validKey x0 mu = true) : InUnit x0 := by
  simp only [validKey, decide_eq_true_eq] at h
  exact ⟨fSign_of_lt (by omega), by rw [fBits_of_lt (by omega)]; omega⟩

theorem InUnit.logistic_of_validKey {x : Word} (h : validKey x0 mu = true) (hx : InUnit x) :
    InUnit (Machine.logistic mu x) := by
  simp only [validKey, decide_eq_true_eq] at h
  exact hx.logistic (by rw [fBits_of_lt (by omega)]; omega) (fSign_of_lt (by omega))

end

theorem State.iterate_inUnit {s : State} (h : validKey s.keyX0 s.keyMu = true) (t : Nat) : InUnit (s.iterate t) := by
  have hx0 : InUnit s.keyX0 := .of_validKey h
  induction t with
  | zero =>
    rw [State.iterate, State.firstIterate]
    split
    · exact hx0
    · exact hx0.logistic_of_validKey h
  | succ t ih => exact ih.logistic_of_validKey h

/-- Settles O37: the logistic step keeps [0, 1], so the loop of GEN does not stop early. -/
theorem validKeyIteratesStayInUnit : Obligations.ValidKeyIteratesStayInUnit := by
  have hinside (s : State) (t : Nat) (h : validKey s.keyX0 s.keyMu = true) : outsideUnit (s.iterate t) = false :=
    (State.iterate_inUnit h t).outsideUnit
  refine ⟨hinside, fun s hready => ?_⟩
  obtain ⟨t, ht, -, -, -, hok, -⟩ := genWritesTheIterates s hready
  exact ⟨t, ht, hok fun j _ => hinside s j hready.2⟩

end Sys2Proof.Machine
end

section
/-! PROOFS. Rotations (41_rotation.md R84 to R96): the order of the lines' cells (O42), what a rotation command does to
its line (O43 to O46), its checks (O47), its inverse (O49), and that different lines of one family commute (O50). -/

namespace Sys2Proof.Machine

/-! ### The lines as their cells in order -/

/-- The cells of a line given by its length and its cell t. -/
def cellsOf (len : Nat) (cell : Nat → Nat × Nat) : List Cell := (List.range len).map cell

theorem antiDiagLine_eq_cellsOf {m n k : Nat} (hm : 1 ≤ m) (hn : 1 ≤ n) (hk : k + 2 ≤ m + n) :
    antiDiagLine m n k = cellsOf (antiDiagLen m n k) (antiDiagCell m k) := by
  have hlen : min k (m - 1) + 1 - (k + 1 - n) = antiDiagLen m n k := by unfold antiDiagLen; omega
  simp only [antiDiagLine, hlen]
  refine List.map_congr_left fun t ht => Prod.ext rfl ?_
  have ht := List.mem_range.mp ht
  unfold antiDiagLen at ht
  show k - (min k (m - 1) - t) = k - min k (m - 1) + t
  omega

theorem diagLine_eq_cellsOf (m n : Nat) (l : Int) : diagLine m n l = cellsOf (diagLen m n l) (diagCell l) := by
  have hcell (t : Nat) : ((max 0 l + t).toNat, (max 0 l + t - l).toNat) = diagCell l t := by
    simp only [diagCell, diagLow, Prod.mk.injEq]
    omega
  simp only [diagLine, diagLen, List.bind_eq_flatMap, List.pure_def, ← List.map_eq_flatMap, List.map_map]
  exact List.map_congr_left fun t _ => hcell t

theorem rowLine_ordered (n i : Nat) : (rowLine n i).Pairwise fun a b => a.2 < b.2 :=
  List.pairwise_map.mpr List.pairwise_lt_range

theorem colLine_ordered (m j : Nat) : (colLine m j).Pairwise fun a b => a.1 < b.1 :=
  List.pairwise_map.mpr List.pairwise_lt_range

theorem antiDiagLine_ordered (m n k : Nat) : (antiDiagLine m n k).Pairwise fun a b => b.1 < a.1 := by
  refine List.pairwise_map.mpr (List.pairwise_lt_range.imp_of_mem fun _ hu htu => ?_)
  have hu := List.mem_range.mp hu
  omega

theorem diagLine_ordered (m n : Nat) (l : Int) : (diagLine m n l).Pairwise fun a b => a.1 < b.1 := by
  rw [diagLine_eq_cellsOf]
  exact List.pairwise_map.mpr (List.pairwise_lt_range.imp fun htu => Nat.add_lt_add_left htu _)

/-- Settles O42: each line lists its cells by a coordinate that moves one way. -/
theorem linesAreTheirCellSets : Obligations.LinesAreTheirCellSets := by
  intro m n hm hn
  refine ⟨fun i _ => ⟨by simp [rowLine], rowLine_ordered n i, fun c => mem_rowLine⟩,
    fun j _ => ⟨by simp [colLine], colLine_ordered m j, fun c => mem_colLine.trans and_comm⟩,
    fun k hk => ?_, fun l hlo hhi => ?_⟩
  · have hk : k + 2 ≤ m + n := by omega
    have hlen : (antiDiagLine m n k).length = antiDiagLen m n k := by simp [antiDiagLine_eq_cellsOf hm hn hk, cellsOf]
    exact ⟨List.ne_nil_of_length_pos (hlen ▸ Nat.succ_pos _), hlen, antiDiagLine_ordered m n k,
      fun c => mem_antiDiagLine hm hk⟩
  · have hlen : ((diagLine m n l).length : Int) = min ((m : Int) - 1) ((n : Int) - 1 + l) - max 0 l + 1 := by
      simp only [diagLine_eq_cellsOf, cellsOf, List.length_map, List.length_range, diagLen]
      omega
    exact ⟨List.ne_nil_of_length_pos (by omega), hlen, diagLine_ordered m n l, fun c => mem_diagLine⟩

/-! ### Rotate on distinct bytes -/

section
variable {addrs : List Nat} {p : Nat} {d : Bool} {m m' : Memory}

theorem rotateLine_of_isSome (h : ∀ a ∈ addrs, (m.read a).isSome = true) (p : Nat) (d : Bool) :
    ∃ m', rotateLine addrs p d m = some m' := by
  refine Option.ne_none_iff_exists'.mp fun hnone => ?_
  obtain ⟨a, ha, hundef⟩ := (rotateLine_eq_none ..).mp hnone
  simpa [hundef] using h a ha

theorem isSome_of_rotateLine (h : rotateLine addrs p d m = some m') : ∀ a ∈ addrs, (m.read a).isSome = true := by
  refine fun a ha => Option.isSome_iff_ne_none.mpr fun hundef => ?_
  cases h.symm.trans ((rotateLine_eq_none ..).mpr ⟨a, ha, hundef⟩)

/-- What Rotate leaves on its line depends on the bytes of the line alone (R89). -/
theorem rotateLine_congr {m₁ m₁' : Memory} (hn : addrs.Nodup) (h : rotateLine addrs p d m = some m')
    (hsame : ∀ a ∈ addrs, m₁.read a = m.read a) (h₁ : rotateLine addrs p d m₁ = some m₁') :
    ∀ a ∈ addrs, m₁'.read a = m'.read a := by
  intro a ha
  obtain ⟨t, ht, rfl⟩ := List.getElem_of_mem ha
  rw [rotateLine_read_line h₁ hn ht, rotateLine_read_line h hn ht]
  exact hsame _ (List.getElem_mem _)

/-- The shifts of the two directions make one full turn (R89, R91). -/
theorem effectiveShift_add_flip {n : Nat} (hn : 0 < n) (p : Nat) (d : Bool) :
    effectiveShift n p (!d) + effectiveShift n p d = n := by
  have := Nat.mod_lt p hn
  cases d <;> simp only [effectiveShift, Bool.not_true, Bool.not_false, if_true, Bool.false_eq_true, if_false] <;> omega

/-- Rotate in the other direction answers and brings every byte back (R91). -/
theorem rotateLine_flip_read (hn : addrs.Nodup) (h : rotateLine addrs p d m = some m') :
    ∃ m'', rotateLine addrs p (!d) m' = some m'' ∧ ∀ a, m''.read a = m.read a := by
  have hdef : ∀ a ∈ addrs, (m'.read a).isSome = true := by
    intro a ha
    obtain ⟨t, ht, rfl⟩ := List.getElem_of_mem ha
    rw [rotateLine_read_line h hn ht]
    exact isSome_of_rotateLine h _ (List.getElem_mem _)
  obtain ⟨m'', h'⟩ := rotateLine_of_isSome hdef p (!d)
  refine ⟨m'', h', fun a => ?_⟩
  by_cases ha : a ∈ addrs
  · obtain ⟨t, ht, rfl⟩ := List.getElem_of_mem ha
    have hturn : ((t + effectiveShift addrs.length p (!d)) % addrs.length + effectiveShift addrs.length p d) %
        addrs.length = t := by
      rw [Nat.mod_add_mod, Nat.add_assoc, effectiveShift_add_flip (by omega), Nat.add_mod_right, Nat.mod_eq_of_lt ht]
    rw [rotateLine_read_line h' hn ht, rotateLine_read_line h hn (Nat.mod_lt _ (by omega))]
    simp only [hturn]
  · rw [rotateLine_read_other h' ha, rotateLine_read_other h ha]

theorem rotateLine_flip (hn : addrs.Nodup) (hwf : m.wf = true) (h : rotateLine addrs p d m = some m') :
    rotateLine addrs p (!d) m' = some m := by
  obtain ⟨m'', h', hread⟩ := rotateLine_flip_read hn h
  rw [h', Memory.ext_of_read (rotateLine_wf h' (rotateLine_wf h hwf)) hwf hread]

/-- Rotations of disjoint lines commute (R88): neither reads or writes a byte of the other's line. -/
theorem rotateLine_comm {addrs₂ : List Nat} {p₂ : Nat} {d₂ : Bool} {m₂ : Memory} (hn : addrs.Nodup)
    (hn₂ : addrs₂.Nodup) (hdisj : addrs.Disjoint addrs₂) (hwf : m.wf = true)
    (h : rotateLine addrs p d m = some m') (h₂ : rotateLine addrs₂ p₂ d₂ m = some m₂) :
    ∃ r, rotateLine addrs₂ p₂ d₂ m' = some r ∧ rotateLine addrs p d m₂ = some r := by
  have hsame₂ : ∀ a ∈ addrs₂, m'.read a = m.read a := fun a ha =>
    rotateLine_read_other h fun ha' => hdisj ha' ha
  have hsame : ∀ a ∈ addrs, m₂.read a = m.read a := fun a ha => rotateLine_read_other h₂ (hdisj ha)
  obtain ⟨r, hr⟩ := rotateLine_of_isSome (fun a ha => hsame₂ a ha ▸ isSome_of_rotateLine h₂ a ha) p₂ d₂
  obtain ⟨r', hr'⟩ := rotateLine_of_isSome (fun a ha => hsame a ha ▸ isSome_of_rotateLine h a ha) p d
  have hread : ∀ a, r.read a = r'.read a := by
    intro a
    by_cases ha : a ∈ addrs
    · rw [rotateLine_read_other hr (hdisj ha), rotateLine_congr hn h hsame hr' a ha]
    · by_cases ha₂ : a ∈ addrs₂
      · rw [rotateLine_read_other hr' ha, rotateLine_congr hn₂ h₂ hsame₂ hr a ha₂]
      · rw [rotateLine_read_other hr ha₂, rotateLine_read_other hr' ha, rotateLine_read_other h ha,
          rotateLine_read_other h₂ ha₂]
  have hrwf := rotateLine_wf hr (rotateLine_wf h hwf)
  have hrwf' := rotateLine_wf hr' (rotateLine_wf h₂ hwf)
  exact ⟨r, hr, hr'.trans (congrArg some (Memory.ext_of_read hrwf hrwf' hread).symm)⟩

end

/-! ### The four commands as one -/

/-- In an m × n block, command i, its selector in range, is Rotate(line, p, d) on the line of `len` cells whose cell t
is `cell t` (R93 to R96). -/
inductive RotatesCells (m n : Nat) : Instr → Nat → (Nat → Nat × Nat) → Nat → Bool → Prop
  | row {i p : Nat} {d : Bool} (hi : i < m) : RotatesCells m n (.rotr i p d) n (rowCell i) p d
  | col {j p : Nat} {d : Bool} (hj : j < n) : RotatesCells m n (.rotc j p d) m (colCell j) p d
  | antiDiag {k p : Nat} {d : Bool} (hk : k + 2 ≤ m + n) :
      RotatesCells m n (.rota k p d) (antiDiagLen m n k) (antiDiagCell m k) p d
  | diag {l : Int} {p : Nat} {d : Bool} (hlo : 1 - (n : Int) ≤ l) (hhi : l ≤ (m : Int) - 1) :
      RotatesCells m n (.rotd l p d) (diagLen m n l) (diagCell l) p d

theorem exists_rotatesCells {i : Instr} {s : State} (h : SelectorOk i s) :
    ∃ len cell p d, RotatesCells s.sm s.sn i len cell p d := by
  cases i with
  | rotr row p d => exact ⟨_, _, _, _, .row h⟩
  | rotc col p d => exact ⟨_, _, _, _, .col h⟩
  | rota k p d => exact ⟨_, _, _, _, .antiDiag h⟩
  | rotd l p d => exact ⟨_, _, _, _, .diag h.1 h.2⟩
  | _ => exact h.elim

section
variable {m n len p : Nat} {i : Instr} {cell : Nat → Nat × Nat} {d : Bool}

theorem RotatesCells.flip (h : RotatesCells m n i len cell p d) :
    RotatesCells m n (flipDirection i) len cell p (!d) := by
  cases h with
  | row hi => exact .row hi
  | col hj => exact .col hj
  | antiDiag hk => exact .antiDiag hk
  | diag hlo hhi => exact .diag hlo hhi

theorem RotatesCells.inBlock (h : RotatesCells m n i len cell p d) (hm : 1 ≤ m) (hn : 1 ≤ n) :
    InBlock m n (cellsOf len cell) := by
  cases h with
  | row hi => exact rowLine_inBlock hi
  | col hj => exact colLine_inBlock hj
  | antiDiag hk => exact antiDiagLine_eq_cellsOf hm hn hk ▸ antiDiagLine_inBlock hm hk
  | diag => exact diagLine_eq_cellsOf m n _ ▸ diagLine_inBlock

theorem RotatesCells.nodup (h : RotatesCells m n i len cell p d) (hm : 1 ≤ m) (hn : 1 ≤ n) :
    (cellsOf len cell).Nodup := by
  cases h with
  | row => exact (rowLine_ordered n _).imp fun hlt heq => (heq ▸ hlt).false
  | col => exact (colLine_ordered m _).imp fun hlt heq => (heq ▸ hlt).false
  | antiDiag hk =>
    rw [← antiDiagLine_eq_cellsOf hm hn hk]
    exact (antiDiagLine_ordered m n _).imp fun hlt heq => (heq ▸ hlt).false
  | diag =>
    rw [← diagLine_eq_cellsOf]
    exact (diagLine_ordered m n _).imp fun hlt heq => (heq ▸ hlt).false

/-- Different lines of one family have no cell in common (R88). -/
theorem RotatesCells.disjoint {j : Instr} {len' p' : Nat} {cell' : Nat → Nat × Nat} {d' : Bool}
    (h : RotatesCells m n i len cell p d) (h' : RotatesCells m n j len' cell' p' d') (hm : 1 ≤ m)
    (hn : 1 ≤ n) (hdiff : differentLines i j = true) : (cellsOf len cell).Disjoint (cellsOf len' cell') := by
  intro c hc hc'
  cases h with
  | row =>
    cases h' with
    | row =>
      obtain ⟨hrow, -⟩ := mem_rowLine.mp hc
      obtain ⟨hrow', -⟩ := mem_rowLine.mp hc'
      exact of_decide_eq_true hdiff (hrow.symm.trans hrow')
    | _ => cases hdiff
  | col =>
    cases h' with
    | col =>
      obtain ⟨-, hcol⟩ := mem_colLine.mp hc
      obtain ⟨-, hcol'⟩ := mem_colLine.mp hc'
      exact of_decide_eq_true hdiff (hcol.symm.trans hcol')
    | _ => cases hdiff
  | antiDiag hk =>
    cases h' with
    | antiDiag hk' =>
      rw [← antiDiagLine_eq_cellsOf hm hn hk, mem_antiDiagLine hm hk] at hc
      rw [← antiDiagLine_eq_cellsOf hm hn hk', mem_antiDiagLine hm hk'] at hc'
      obtain ⟨-, -, hsum⟩ := hc
      obtain ⟨-, -, hsum'⟩ := hc'
      exact of_decide_eq_true hdiff (hsum.symm.trans hsum')
    | _ => cases hdiff
  | diag =>
    cases h' with
    | diag =>
      rw [← diagLine_eq_cellsOf, mem_diagLine] at hc hc'
      obtain ⟨-, -, hdifference⟩ := hc
      obtain ⟨-, -, hdifference'⟩ := hc'
      exact of_decide_eq_true hdiff (hdifference.symm.trans hdifference')
    | _ => cases hdiff

theorem cellAddr_injective {c c' : Cell} (hc : c.2 < n) (hc' : c'.2 < n) (h : cellAddr n c = cellAddr n c') :
    c = c' := by
  unfold cellAddr at h
  rw [Nat.mul_comm, Nat.mul_comm c'.1] at h
  have hrow : c.1 = c'.1 := by
    simpa [Nat.mul_add_div (Nat.zero_lt_of_lt hc), Nat.div_eq_of_lt, hc, hc'] using congrArg (· / n) h
  exact Prod.ext hrow (Nat.add_left_cancel (hrow ▸ h))

/-- The bytes of a line are distinct. -/
theorem InBlock.lineAddrs_nodup {line : List Cell} (h : InBlock m n line) (hn : line.Nodup) :
    (lineAddrs n line).Nodup :=
  hn.map_on fun c hc c' hc' => cellAddr_injective (h c hc).2 (h c' hc').2

theorem InBlock.lineAddrs_disjoint {line line' : List Cell} (h : InBlock m n line) (h' : InBlock m n line')
    (hdisj : line.Disjoint line') : (lineAddrs n line).Disjoint (lineAddrs n line') := by
  intro a ha ha'
  obtain ⟨c, hc, rfl⟩ := List.mem_map.mp ha
  obtain ⟨c', hc', haddr⟩ := List.mem_map.mp ha'
  exact hdisj hc (cellAddr_injective (h' c' hc').2 (h c hc).2 haddr ▸ hc')

theorem RotatesCells.lineAddrs_nodup (h : RotatesCells m n i len cell p d) (hm : 1 ≤ m) (hn : 1 ≤ n) :
    (lineAddrs n (cellsOf len cell)).Nodup :=
  (h.inBlock hm hn).lineAddrs_nodup (h.nodup hm hn)

end

/-! ### Completion -/

section
variable {s : State} {len p : Nat} {i : Instr} {cell : Nat → Nat × Nat} {d : Bool}

theorem RotatesCells.lineReadable (h : RotatesCells s.sm s.sn i len cell p d) :
    LineReadable i s ↔ LineDefined s len cell := by
  cases h <;> exact Iff.rfl

theorem RotatesCells.exec_eq (h : RotatesCells s.sm s.sn i len cell p d) (hgeom : s.GeomOk) :
    exec i s = rotateCommand s true (cellsOf len cell) p d := by
  cases h with
  | row hi => exact congrArg (rotateCommand s · _ p d) (decide_eq_true hi)
  | col hj => exact congrArg (rotateCommand s · _ p d) (decide_eq_true hj)
  | antiDiag hk =>
    have ⟨hm, _, hn, _⟩ := hgeom
    exact congrArg₂ (rotateCommand s · · p d) (decide_eq_true hk) (antiDiagLine_eq_cellsOf hm hn hk)
  | diag hlo hhi =>
    exact congrArg₂ (rotateCommand s · · p d) (decide_eq_true ⟨hlo, hhi⟩) (diagLine_eq_cellsOf ..)

/-- A rotation command whose checks pass is Rotate on its line's bytes of BUF (R89, R93 to R96). -/
theorem RotatesCells.exec_of_rotateLine (h : RotatesCells s.sm s.sn i len cell p d) (hgeom : s.GeomOk) {m : Memory}
    (hm : rotateLine (lineAddrs s.sn (cellsOf len cell)) p d s.buf = some m) :
    exec i s = .next (s.setBuf m).finish := by
  rw [h.exec_eq hgeom, rotateCommand, rotCheck_eq_none.mpr ⟨hgeom, rfl⟩, hm]
  rfl

theorem LineDefined.exists_rotateLine (hdef : LineDefined s len cell) (p : Nat) (d : Bool) :
    ∃ m, rotateLine (lineAddrs s.sn (cellsOf len cell)) p d s.buf = some m :=
  rotateLine_of_isSome (by simpa [lineAddrs, cellsOf, cellAddr] using hdef) p d

/-- Rotate on a line's bytes, read cell by cell (R89). -/
theorem rotatedLine_of_rotateLine {m : Memory} (hn : (lineAddrs s.sn (cellsOf len cell)).Nodup)
    (hm : rotateLine (lineAddrs s.sn (cellsOf len cell)) p d s.buf = some m) :
    RotatedLine s (s.setBuf m).finish len cell p d := by
  have hlen : (lineAddrs s.sn (cellsOf len cell)).length = len := by simp [lineAddrs, cellsOf]
  refine ⟨fun t ht => ?_, fun a ha => rotateLine_read_other hm ?_, rfl⟩
  · simpa [lineAddrs, cellsOf, cellAddr, effectiveShift] using rotateLine_read_line hm hn (hlen.symm ▸ ht)
  · simpa [lineAddrs, cellsOf, cellAddr, eq_comm] using ha

theorem RotatesCells.exec_rotatedLine (h : RotatesCells s.sm s.sn i len cell p d) (hgeom : s.GeomOk)
    (hdef : LineDefined s len cell) : ∃ t, exec i s = .next t ∧ RotatedLine s t len cell p d := by
  have ⟨hsm, _, hsn, _⟩ := hgeom
  obtain ⟨m, hm⟩ := hdef.exists_rotateLine p d
  exact ⟨_, h.exec_of_rotateLine hgeom hm, rotatedLine_of_rotateLine (h.lineAddrs_nodup hsm hsn) hm⟩

end

/-- Settles O43: ROTR is Rotate on the cells of its row. -/
theorem rotrRotatesItsRow : Obligations.RotrRotatesItsRow := fun _ _ _ _ hgeom hrow hdef =>
  RotatesCells.exec_rotatedLine (.row hrow) hgeom hdef

/-- Settles O44: ROTC is Rotate on the cells of its column. -/
theorem rotcRotatesItsColumn : Obligations.RotcRotatesItsColumn := fun _ _ _ _ hgeom hcol hdef =>
  RotatesCells.exec_rotatedLine (.col hcol) hgeom hdef

/-- Settles O45: ROTA is Rotate on the cells of its anti-diagonal. -/
theorem rotaRotatesItsAntiDiagonal : Obligations.RotaRotatesItsAntiDiagonal := fun s k _ _ hgeom hk hdef =>
  have hsel : k + 2 ≤ s.sm + s.sn := by obtain ⟨hm, -, hn, -⟩ := hgeom; omega
  RotatesCells.exec_rotatedLine (.antiDiag hsel) hgeom hdef

/-- Settles O46: ROTD is Rotate on the cells of its diagonal. -/
theorem rotdRotatesItsDiagonal : Obligations.RotdRotatesItsDiagonal := fun _ _ _ _ hgeom hlo hhi hdef =>
  RotatesCells.exec_rotatedLine (.diag hlo hhi) hgeom hdef

/-! ### Two rotations after one another -/

/-- Settles O49: the two shifts make one full turn of the line. -/
theorem rotationUndoneByItsFlip : Obligations.RotationUndoneByItsFlip := by
  intro s i _ hgeom hsel hread hwf
  have ⟨hsm, _, hsn, _⟩ := hgeom
  obtain ⟨len, cell, p, d, h⟩ := exists_rotatesCells hsel
  obtain ⟨m, hm⟩ := (h.lineReadable.mp hread).exists_rotateLine p d
  have hback := rotateLine_flip (h.lineAddrs_nodup hsm hsn) hwf hm
  exact ⟨(s.setBuf m).finish, h.exec_of_rotateLine hgeom hm,
    RotatesCells.exec_of_rotateLine (s := (s.setBuf m).finish) h.flip hgeom hback⟩

/-- Settles O50: the lines share no byte. -/
theorem differentLinesCommute : Obligations.DifferentLinesCommute := by
  intro s i j hdiff hgeom hi hj hreadi hreadj hwf
  have ⟨hm, _, hn, _⟩ := hgeom
  obtain ⟨leni, celli, pi, di, hi⟩ := exists_rotatesCells hi
  obtain ⟨lenj, cellj, pj, dj, hj⟩ := exists_rotatesCells hj
  obtain ⟨mi, hmi⟩ := (hi.lineReadable.mp hreadi).exists_rotateLine pi di
  obtain ⟨mj, hmj⟩ := (hj.lineReadable.mp hreadj).exists_rotateLine pj dj
  have hdisj := (hi.inBlock hm hn).lineAddrs_disjoint (hj.inBlock hm hn) (hi.disjoint hj hm hn hdiff)
  obtain ⟨m, hij, hji⟩ :=
    rotateLine_comm (hi.lineAddrs_nodup hm hn) (hj.lineAddrs_nodup hm hn) hdisj hwf hmi hmj
  exact ⟨(s.setBuf mi).finish, (s.setBuf mj).finish, (s.setBuf m).finish, hi.exec_of_rotateLine hgeom hmi,
    RotatesCells.exec_of_rotateLine (s := (s.setBuf mi).finish) hj hgeom hij, hj.exec_of_rotateLine hgeom hmj,
    RotatesCells.exec_of_rotateLine (s := (s.setBuf mj).finish) hi hgeom hji⟩

/-! ### The checks -/

theorem commandCheck_of_isRotation {i : Instr} (hrot : isRotation i = true) (s : State) :
    ∃ selOk, commandCheck i s = rotCheck s selOk ∧ (selOk = true ↔ SelectorOk i s) := by
  cases i with
  | rotr row p d => exact ⟨s.rowOk row, rfl, decide_eq_true_iff⟩
  | rotc col p d => exact ⟨s.colOk col, rfl, decide_eq_true_iff⟩
  | rota k p d => exact ⟨s.antiDiagOk k, rfl, decide_eq_true_iff⟩
  | rotd l p d => exact ⟨s.diagOk l, rfl, decide_eq_true_iff⟩
  | _ => cases hrot

/-- Settles O47: each check of a rotation, when it is the first to fail, names its error. -/
theorem rotationsCheckInOrder : Obligations.RotationsCheckInOrder := by
  intro s i hrot
  obtain ⟨selOk, hcheck, hsel⟩ := commandCheck_of_isRotation hrot s
  refine ⟨fun hzero => ?_, fun hm hn hrange => ?_, fun hgeom hbad => ?_⟩
  · exact checkFails_of_commandCheck (c := .zeroBlock) (hcheck.trans (if_pos hzero))
  · refine checkFails_of_commandCheck (c := .geomRange) (hcheck.trans ?_)
    rw [rotCheck, if_neg (by omega), if_pos hrange]
  · obtain ⟨hm, hm', hn, hn'⟩ := hgeom
    refine checkFails_of_commandCheck (c := .badSelector) (hcheck.trans ?_)
    rw [rotCheck, if_neg (by omega), if_neg (by omega), if_pos (Bool.eq_false_iff.mpr (mt hsel.mp hbad))]

end Sys2Proof.Machine
end

section
/-! PROOFS. Lists of rotations (41_rotation.md R88, R89, R91), as APPLY runs them (42_subhcie.md R103, R107): a rotation
permutes the bytes of its line, so a list of them permutes BUF by the product of their permutations. -/

namespace Sys2Proof.Machine

/-- One Rotate (R89): the BUF bytes of its line, in order, its shift and its direction bit. -/
structure Rotation where
  addrs : List Nat
  p : Nat
  d : Bool

/-- Rotate one line after another; none when a byte of one of them is undefined. -/
def rotateAll (xs : List Rotation) (m : Memory) : Option Memory :=
  xs.foldlM (fun m x => rotateLine x.addrs x.p x.d m) m

@[simp] theorem rotateAll_nil (m : Memory) : rotateAll [] m = some m := rfl

theorem rotateAll_cons_eq_some {x : Rotation} {xs : List Rotation} {m m' : Memory} :
    rotateAll (x :: xs) m = some m' ↔
      ∃ m₁, rotateLine x.addrs x.p x.d m = some m₁ ∧ rotateAll xs m₁ = some m' := by
  simp [rotateAll, Option.bind_eq_some_iff]

theorem rotateAll_append_eq_some {xs ys : List Rotation} {m m' : Memory} :
    rotateAll (xs ++ ys) m = some m' ↔ ∃ m₁, rotateAll xs m = some m₁ ∧ rotateAll ys m₁ = some m' := by
  simp [rotateAll, Option.bind_eq_some_iff]

theorem rotateAll_wf {xs : List Rotation} {m m' : Memory} (h : rotateAll xs m = some m') (hm : m.wf = true) :
    m'.wf = true := by
  induction xs generalizing m with
  | nil => cases h; exact hm
  | cons x xs ih =>
    obtain ⟨m₁, h₁, h⟩ := rotateAll_cons_eq_some.mp h
    exact ih h (rotateLine_wf h₁ hm)

/-! ### When a list of rotations answers -/

/-- Rotate defines no byte and undefines none. -/
theorem rotateLine_isSome_read {addrs : List Nat} {p : Nat} {d : Bool} {m m' : Memory} (hn : addrs.Nodup)
    (h : rotateLine addrs p d m = some m') (a : Nat) : (m'.read a).isSome = (m.read a).isSome := by
  have hdef := isSome_of_rotateLine h
  by_cases ha : a ∈ addrs
  · obtain ⟨t, ht, rfl⟩ := List.getElem_of_mem ha
    rw [rotateLine_read_line h hn ht, hdef _ ha, hdef _ (List.getElem_mem _)]
  · rw [rotateLine_read_other h ha]

theorem exists_rotateAll_iff {xs : List Rotation} (hn : ∀ x ∈ xs, x.addrs.Nodup) {m : Memory} :
    (∃ m', rotateAll xs m = some m') ↔ ∀ x ∈ xs, ∀ a ∈ x.addrs, (m.read a).isSome = true := by
  induction xs generalizing m with
  | nil => simp
  | cons x xs ih =>
    obtain ⟨hx, hxs⟩ := List.forall_mem_cons.mp hn
    rw [List.forall_mem_cons]
    constructor
    · rintro ⟨m', h⟩
      obtain ⟨m₁, h₁, h⟩ := rotateAll_cons_eq_some.mp h
      refine ⟨isSome_of_rotateLine h₁, fun y hy a ha => ?_⟩
      rw [← rotateLine_isSome_read hx h₁]
      exact (ih hxs).mp ⟨m', h⟩ y hy a ha
    · rintro ⟨hdef, hrest⟩
      obtain ⟨m₁, h₁⟩ := rotateLine_of_isSome hdef x.p x.d
      simp only [← rotateLine_isSome_read hx h₁] at hrest
      obtain ⟨m', h⟩ := (ih hxs).mpr hrest
      exact ⟨m', rotateAll_cons_eq_some.mpr ⟨m₁, h₁, h⟩⟩

/-! ### The permutation of the bytes -/

/-- After a rotation, byte a holds what byte `x.perm a` held (R89): `shift` steps along the cycle of the line. -/
def Rotation.perm (x : Rotation) : Equiv.Perm Nat := x.addrs.formPerm ^ effectiveShift x.addrs.length x.p x.d

/-- The permutation of the bytes that a list of rotations makes. -/
def rotationsPerm (xs : List Rotation) : Equiv.Perm Nat := (xs.map Rotation.perm).prod

@[simp] theorem rotationsPerm_nil : rotationsPerm [] = 1 := rfl

@[simp] theorem rotationsPerm_cons (x : Rotation) (xs : List Rotation) :
    rotationsPerm (x :: xs) = x.perm * rotationsPerm xs := by simp [rotationsPerm]

@[simp] theorem rotationsPerm_append (xs ys : List Rotation) :
    rotationsPerm (xs ++ ys) = rotationsPerm xs * rotationsPerm ys := by simp [rotationsPerm]

theorem rotationsPerm_flatMap (rs : List Nat) (f : Nat → List Rotation) :
    rotationsPerm (rs.flatMap f) = (rs.map fun r => rotationsPerm (f r)).prod := by
  induction rs with
  | nil => rfl
  | cons r rs ih => rw [List.flatMap_cons, rotationsPerm_append, ih, List.map_cons, List.prod_cons]

theorem Rotation.perm_apply_of_notMem {x : Rotation} {a : Nat} (h : a ∉ x.addrs) : x.perm a = a :=
  Equiv.Perm.pow_apply_eq_self_of_apply_eq_self (List.formPerm_apply_of_notMem h) _

theorem Rotation.read_of_rotateLine {x : Rotation} (hn : x.addrs.Nodup) {m m' : Memory}
    (h : rotateLine x.addrs x.p x.d m = some m') (a : Nat) : m'.read a = m.read (x.perm a) := by
  by_cases ha : a ∈ x.addrs
  · obtain ⟨t, ht, rfl⟩ := List.getElem_of_mem ha
    rw [rotateLine_read_line h hn ht, Rotation.perm, List.formPerm_pow_apply_getElem _ hn]
  · rw [rotateLine_read_other h ha, x.perm_apply_of_notMem ha]

theorem read_of_rotateAll {xs : List Rotation} (hn : ∀ x ∈ xs, x.addrs.Nodup) {m m' : Memory}
    (h : rotateAll xs m = some m') (a : Nat) : m'.read a = m.read (rotationsPerm xs a) := by
  induction xs generalizing m with
  | nil => cases h; rfl
  | cons x xs ih =>
    obtain ⟨hx, hxs⟩ := List.forall_mem_cons.mp hn
    obtain ⟨m₁, h₁, h⟩ := rotateAll_cons_eq_some.mp h
    rw [ih hxs h, x.read_of_rotateLine hx h₁, rotationsPerm_cons, Equiv.Perm.mul_apply]

/-- The permutations of the bytes of a block of n bytes. -/
def blockPerms (n : Nat) : Subgroup (Equiv.Perm Nat) := fixingSubgroup (Equiv.Perm Nat) (Set.Ici n)

theorem mem_blockPerms {n : Nat} {σ : Equiv.Perm Nat} : σ ∈ blockPerms n ↔ ∀ a, n ≤ a → σ a = a :=
  mem_fixingSubgroup_iff _

theorem rotationsPerm_mem_blockPerms {n : Nat} {xs : List Rotation} (h : ∀ x ∈ xs, ∀ a ∈ x.addrs, a < n) :
    rotationsPerm xs ∈ blockPerms n := by
  refine list_prod_mem (List.forall_mem_map.mpr fun x hx => mem_blockPerms.mpr fun a ha => ?_)
  exact x.perm_apply_of_notMem fun hmem => (h x hx a hmem).not_ge ha

theorem lt_of_mem_blockPerms {n : Nat} {σ : Equiv.Perm Nat} (h : σ ∈ blockPerms n) {a : Nat} (ha : a < n) :
    σ a < n := by
  by_contra hge
  have hfix : σ a = a := σ.injective (mem_blockPerms.mp h (σ a) (Nat.le_of_not_lt hge))
  omega

/-- A permutation of the block's bytes permutes the list of their values (R112). -/
theorem map_read_perm {n : Nat} {σ : Equiv.Perm Nat} (h : σ ∈ blockPerms n) {m m' : Memory}
    (hread : ∀ a, m'.read a = m.read (σ a)) : ((List.range n).map m'.read).Perm ((List.range n).map m.read) := by
  have hrange : ((List.range n).map σ).Perm (List.range n) := by
    refine (List.perm_ext_iff_of_nodup (List.nodup_range.map σ.injective) List.nodup_range).mpr fun a => ?_
    simp only [List.mem_map, List.mem_range]
    refine ⟨?_, fun ha => ⟨σ⁻¹ a, lt_of_mem_blockPerms (inv_mem h) ha, σ.apply_symm_apply a⟩⟩
    rintro ⟨b, hb, rfl⟩
    exact lt_of_mem_blockPerms h hb
  have hmap : (List.range n).map m'.read = ((List.range n).map σ).map m.read := by
    rw [List.map_map]
    exact List.map_congr_left fun a _ => hread a
  rw [hmap]
  exact hrange.map _

/-! ### Undoing a list of rotations -/

/-- The same rotation in the other direction (R91). -/
def Rotation.flip (x : Rotation) : Rotation := { x with d := !x.d }

theorem Rotation.perm_flip {x : Rotation} (hn : x.addrs.Nodup) : x.flip.perm = x.perm⁻¹ := by
  rw [eq_inv_iff_mul_eq_one]
  show x.addrs.formPerm ^ effectiveShift x.addrs.length x.p (!x.d) *
    x.addrs.formPerm ^ effectiveShift x.addrs.length x.p x.d = 1
  rcases Nat.eq_zero_or_pos x.addrs.length with hzero | hpos
  · simp [List.eq_nil_of_length_eq_zero hzero]
  · rw [← pow_add, effectiveShift_add_flip hpos, List.formPerm_pow_length_eq_one_of_nodup _ hn]

theorem Rotation.perm_commute {x y : Rotation} (h : x.addrs.Disjoint y.addrs) : Commute x.perm y.perm := by
  refine Equiv.Perm.Disjoint.commute fun a => ?_
  by_cases ha : a ∈ x.addrs
  · exact .inr (y.perm_apply_of_notMem fun hy => h ha hy)
  · exact .inl (x.perm_apply_of_notMem ha)

/-- Rotations of disjoint lines are undone by their twins in any order (R88, R91). -/
theorem rotationsPerm_flip {xs : List Rotation} (hn : ∀ x ∈ xs, x.addrs.Nodup)
    (hdisj : xs.Pairwise fun x y => x.addrs.Disjoint y.addrs) :
    rotationsPerm (xs.map Rotation.flip) = (rotationsPerm xs)⁻¹ := by
  induction xs with
  | nil => simp
  | cons x xs ih =>
    obtain ⟨hx, hxs⟩ := List.forall_mem_cons.mp hn
    obtain ⟨hxd, hxsd⟩ := List.pairwise_cons.mp hdisj
    have hcomm : Commute x.perm (rotationsPerm xs) := by
      refine Commute.list_prod_right _ _ (List.forall_mem_map.mpr fun y hy => ?_)
      exact Rotation.perm_commute (hxd y hy)
    rw [List.map_cons, rotationsPerm_cons, rotationsPerm_cons, ih hxs hxsd, Rotation.perm_flip hx, hcomm.eq,
      mul_inv_rev]

end Sys2Proof.Machine
end

section
/-! PROOFS. APPLY as a list of rotations (42_subhcie.md R98 to R107): the stream positions of a round (O56), the
rotations of the rounds, and when they answer. -/

namespace Sys2Proof.Machine

namespace Engine

variable {e : Engine} {q r n : Nat}

/-! ### The lines of a round -/

/-- Both modes rotate the same lines at the same positions (R101). -/
theorem roundLines_perm (e : Engine) (q : Nat) :
    (e.roundLines q).Perm (e.rowPhase q ++ e.colPhase q ++ e.antiDiagPhase q ++ e.diagPhase q) := by
  unfold roundLines
  split
  · refine (List.reverse_perm _).symm.trans ?_
    simp only [List.reverse_append, List.append_assoc]
    exact (List.reverse_perm _).append ((List.reverse_perm _).append ((List.reverse_perm _).append
      (List.reverse_perm _)))
  · exact .refl _

theorem rowPhase_pos : (e.rowPhase q).map LineTurn.pos = List.range' q e.sm := by
  simp [rowPhase, List.range'_eq_map_range, Function.comp_def]

theorem colPhase_pos : (e.colPhase q).map LineTurn.pos = List.range' (q + e.sm) e.sn := by
  simp [colPhase, List.range'_eq_map_range, Function.comp_def]

theorem antiDiagPhase_pos :
    (e.antiDiagPhase q).map LineTurn.pos = List.range' (q + e.sm + e.sn) (e.sm + e.sn - 1) := by
  simp [antiDiagPhase, List.range'_eq_map_range, Function.comp_def]

/-- Turn t of the diagonal phase is diagonal l = 1 − S_N + t (R103). -/
theorem diagPhase_eq (e : Engine) (q : Nat) :
    e.diagPhase q = (List.range (e.sm + e.sn - 1)).map fun t : Nat =>
      { line := diagLine e.sm e.sn (1 - (e.sn : Int) + t)
        pos := ((q : Int) + 2 * e.sm + 3 * e.sn + (1 - (e.sn : Int) + t) - 2).toNat } := by
  simp only [diagPhase, List.bind_eq_flatMap, List.pure_def, ← List.map_eq_flatMap, List.map_map]
  rfl

theorem diagPhase_pos (hm : 1 ≤ e.sm) :
    (e.diagPhase q).map LineTurn.pos = List.range' (q + e.sm + e.sn + (e.sm + e.sn - 1)) (e.sm + e.sn - 1) := by
  rw [diagPhase_eq, List.range'_eq_map_range, List.map_map]
  refine List.map_congr_left fun t _ => ?_
  show ((q : Int) + 2 * e.sm + 3 * e.sn + (1 - (e.sn : Int) + t) - 2).toNat = _
  omega

theorem roundLines_pos_perm (hm : 1 ≤ e.sm) : ((e.roundLines q).map LineTurn.pos).Perm (List.range' q e.roundCost) := by
  refine ((e.roundLines_perm q).map _).trans (.of_eq ?_)
  have hcost : e.roundCost = e.sm + e.sn + (e.sm + e.sn - 1) + (e.sm + e.sn - 1) := by unfold roundCost; omega
  simp only [List.map_append, rowPhase_pos, colPhase_pos, antiDiagPhase_pos, diagPhase_pos hm, hcost,
    List.range'_append_1, Nat.add_assoc]

theorem roundLines_nodup (hm : 1 ≤ e.sm) : ∀ x ∈ e.roundLines q, (lineAddrs e.sn x.line).Nodup := by
  intro x hx
  refine (roundLines_inBlock hm x hx).lineAddrs_nodup ?_
  rw [(e.roundLines_perm q).mem_iff] at hx
  simp only [rowPhase, colPhase, antiDiagPhase, diagPhase_eq, List.mem_append, List.mem_map] at hx
  obtain ((⟨i, -, rfl⟩ | ⟨j, -, rfl⟩) | ⟨k, -, rfl⟩) | ⟨t, -, rfl⟩ := hx
  · exact (rowLine_ordered ..).imp fun hlt heq => (heq ▸ hlt).false
  · exact (colLine_ordered ..).imp fun hlt heq => (heq ▸ hlt).false
  · exact (antiDiagLine_ordered ..).imp fun hlt heq => (heq ▸ hlt).false
  · exact (diagLine_ordered ..).imp fun hlt heq => (heq ▸ hlt).false

/-- The rows of a round hold every byte of the block (R84). -/
theorem exists_line_of_lt {a : Nat} (ha : a < e.sm * e.sn) : ∃ x ∈ e.roundLines q, a ∈ lineAddrs e.sn x.line := by
  have hsn : 0 < e.sn := Nat.pos_of_ne_zero fun h => by simp [h] at ha
  have hrow : a / e.sn < e.sm := Nat.div_lt_of_lt_mul (by rwa [Nat.mul_comm])
  refine ⟨⟨rowLine e.sn (a / e.sn), q + a / e.sn⟩, (e.roundLines_perm q).mem_iff.mpr ?_, ?_⟩
  · simp only [List.mem_append]
    exact .inl (.inl (.inl (List.mem_map_of_mem (List.mem_range.mpr hrow))))
  · exact List.mem_map.mpr ⟨(a / e.sn, a % e.sn), mem_rowLine.mpr ⟨rfl, Nat.mod_lt _ hsn⟩, Nat.div_add_mod' a e.sn⟩

/-! ### The rotations of the rounds -/

/-- bit(n), where it is defined (R48). -/
def definedBit (e : Engine) (n : Nat) : Bool := (e.bit n).getD false

/-- p(r), where its two bits are defined (R101). -/
def definedShift (e : Engine) (r : Nat) : Nat :=
  e.alpha + e.beta * (e.definedBit (e.roundStart r)).toNat + e.gamma * (e.definedBit (e.roundStart r + 1)).toNat

/-- The rotation of a line by p, its direction bit flipped in Decrypt mode (R103, R107). -/
def rotation (e : Engine) (p : Nat) (x : LineTurn) : Rotation :=
  { addrs := lineAddrs e.sn x.line, p := p, d := e.definedBit x.pos ^^ e.decrypt }

/-- The rotations of round r (R103, R107). -/
def roundRotations (e : Engine) (r : Nat) : List Rotation :=
  (e.roundLines (e.roundStart r)).map (e.rotation (e.definedShift r))

/-- The rotations of the whole call (R105, R109). -/
def rotations (e : Engine) : List Rotation := e.roundOrder.flatMap e.roundRotations

theorem roundRotations_nodup (hm : 1 ≤ e.sm) : ∀ x ∈ e.roundRotations r, x.addrs.Nodup :=
  List.forall_mem_map.mpr (roundLines_nodup hm)

theorem roundRotations_lt (hm : 1 ≤ e.sm) : ∀ x ∈ e.roundRotations r, ∀ a ∈ x.addrs, a < e.sm * e.sn :=
  List.forall_mem_map.mpr fun x hx => (roundLines_inBlock hm x hx).lineAddrs_lt

theorem rotations_nodup (hm : 1 ≤ e.sm) : ∀ x ∈ e.rotations, x.addrs.Nodup :=
  List.forall_mem_flatMap.mpr fun _ _ => roundRotations_nodup hm

theorem rotations_lt (hm : 1 ≤ e.sm) : ∀ x ∈ e.rotations, ∀ a ∈ x.addrs, a < e.sm * e.sn :=
  List.forall_mem_flatMap.mpr fun _ _ => roundRotations_lt hm

theorem mem_roundOrder : r ∈ e.roundOrder ↔ r < e.nIter := by
  unfold roundOrder
  split <;> simp

/-- The rotations of a call answer exactly when every byte of the block is defined. -/
theorem exists_rotateAll_rotations_iff (hm : 1 ≤ e.sm) (hiter : 1 ≤ e.nIter) {m : Memory} :
    (∃ m', rotateAll e.rotations m = some m') ↔ m.DefinedBelow (e.sm * e.sn) := by
  rw [exists_rotateAll_iff (rotations_nodup hm)]
  constructor
  · intro h a ha
    obtain ⟨x, hx, hmem⟩ := exists_line_of_lt (q := e.roundStart 0) ha
    exact h _ (List.mem_flatMap.mpr ⟨0, mem_roundOrder.mpr hiter, List.mem_map_of_mem hx⟩) a hmem
  · exact fun h x hx a ha => h a (rotations_lt hm x hx a ha)

/-! ### The rounds are their rotations -/

/-- The stream bits at positions q to q + n − 1 are defined. -/
def BitsDefined (e : Engine) (q n : Nat) : Prop := ∀ k, q ≤ k → k < q + n → (e.bit k).isSome = true

theorem bit_eq_some (h : (e.bit n).isSome = true) : e.bit n = some (e.definedBit n) := by
  obtain ⟨b, hb⟩ := Option.isSome_iff_exists.mp h
  rw [definedBit, hb, Option.getD_some]

theorem runLines_cons_eq_some {p : Nat} {x : LineTurn} {xs : List LineTurn} {m m' : Memory} :
    e.runLines p (x :: xs) m = some m' ↔ (e.bit x.pos).isSome = true ∧
      ∃ m₁, rotateLine (e.rotation p x).addrs p (e.rotation p x).d m = some m₁ ∧ e.runLines p xs m₁ = some m' := by
  rw [runLines]
  cases hb : e.bit x.pos with
  | none => simp
  | some b =>
    simp only [rotation, definedBit, hb, Option.getD_some]
    cases rotateLine (lineAddrs e.sn x.line) p (b ^^ e.decrypt) m <;> simp

theorem runLines_eq_some {p : Nat} {xs : List LineTurn} {m m' : Memory} :
    e.runLines p xs m = some m' ↔
      (∀ x ∈ xs, (e.bit x.pos).isSome = true) ∧ rotateAll (xs.map (e.rotation p)) m = some m' := by
  induction xs generalizing m with
  | nil => simp [runLines]
  | cons x xs ih =>
    simp only [runLines_cons_eq_some, List.forall_mem_cons, List.map_cons, rotateAll_cons_eq_some, ih, and_assoc]
    exact and_congr_right fun _ => ⟨fun ⟨m₁, h₁, hbits, h⟩ => ⟨hbits, m₁, h₁, h⟩,
      fun ⟨hbits, m₁, h₁, h⟩ => ⟨m₁, h₁, hbits, h⟩⟩

theorem roundShift_eq (hsm : 1 ≤ e.sm) (hsn : 1 ≤ e.sn) (h : e.BitsDefined (e.roundStart r) e.roundCost) :
    e.roundShift r = some (e.definedShift r) := by
  have hcost : 2 ≤ e.roundCost := by unfold roundCost; omega
  rw [roundShift, bit_eq_some (h _ (by omega) (by omega)), bit_eq_some (h (e.roundStart r + 1) (by omega) (by omega))]
  rfl

/-- Round r answers exactly when its stream bits are defined and its rotations answer (R102). -/
theorem runRound_eq_some (hsm : 1 ≤ e.sm) (hsn : 1 ≤ e.sn) {m m' : Memory} :
    e.runRound r m = some m' ↔
      e.BitsDefined (e.roundStart r) e.roundCost ∧ rotateAll (e.roundRotations r) m = some m' := by
  have hbits : (∀ x ∈ e.roundLines (e.roundStart r), (e.bit x.pos).isSome = true) ↔
      e.BitsDefined (e.roundStart r) e.roundCost := by
    rw [← List.forall_mem_map (f := LineTurn.pos) (P := fun k => (e.bit k).isSome = true)]
    simp only [(roundLines_pos_perm hsm).mem_iff, List.mem_range'_1, BitsDefined, and_imp]
  unfold runRound
  cases hp : e.roundShift r with
  | none =>
    refine iff_of_false nofun fun ⟨h, _⟩ => ?_
    cases hp.symm.trans (roundShift_eq hsm hsn h)
  | some p =>
    rw [← hbits, roundRotations]
    show e.runLines p _ m = some m' ↔ _
    rw [runLines_eq_some]
    refine and_congr_right fun h => ?_
    cases hp.symm.trans (roundShift_eq hsm hsn (hbits.mp h))
    rfl

theorem runRounds_cons_eq_some {rs : List Nat} {m m' : Memory} :
    e.runRounds (r :: rs) m = some m' ↔ ∃ m₁, e.runRound r m = some m₁ ∧ e.runRounds rs m₁ = some m' := by
  rw [runRounds]
  cases e.runRound r m <;> simp

theorem runRounds_list_eq_some (hsm : 1 ≤ e.sm) (hsn : 1 ≤ e.sn) {rs : List Nat} {m m' : Memory} :
    e.runRounds rs m = some m' ↔
      (∀ r ∈ rs, e.BitsDefined (e.roundStart r) e.roundCost) ∧ rotateAll (rs.flatMap e.roundRotations) m = some m' := by
  induction rs generalizing m with
  | nil => simp [runRounds]
  | cons r rs ih =>
    simp only [runRounds_cons_eq_some, runRound_eq_some hsm hsn, ih, List.forall_mem_cons, List.flatMap_cons,
      rotateAll_append_eq_some]
    tauto

/-- The positions of the rounds together are C0 to C0 + CC − 1 (R102). -/
theorem bitsDefined_rounds_iff (hsm : 1 ≤ e.sm) (hsn : 1 ≤ e.sn) :
    (∀ r ∈ e.roundOrder, e.BitsDefined (e.roundStart r) e.roundCost) ↔ e.BitsDefined e.c0 e.callCost := by
  have hcost : 0 < e.roundCost := by unfold roundCost; omega
  simp only [mem_roundOrder, BitsDefined, roundStart, callCost]
  constructor
  · intro h k hlo hhi
    have hsplit := Nat.div_add_mod' (k - e.c0) e.roundCost
    have hlt := Nat.mod_lt (k - e.c0) hcost
    exact h ((k - e.c0) / e.roundCost) (Nat.div_lt_of_lt_mul (by rw [Nat.mul_comm]; omega)) k (by omega) (by omega)
  · intro h r hr k hlo hhi
    have hround : (r + 1) * e.roundCost ≤ e.nIter * e.roundCost := Nat.mul_le_mul_right _ hr
    rw [Nat.add_one_mul] at hround
    exact h k (by omega) (by omega)

/-- The rounds of a call answer exactly when the consumed stream bits are defined and the rotations answer (R102). -/
theorem runRounds_eq_some (hsm : 1 ≤ e.sm) (hsn : 1 ≤ e.sn) {m m' : Memory} :
    e.runRounds e.roundOrder m = some m' ↔
      e.BitsDefined e.c0 e.callCost ∧ rotateAll e.rotations m = some m' := by
  rw [runRounds_list_eq_some hsm hsn, bitsDefined_rounds_iff hsm hsn]
  rfl

end Engine

/-- Settles O56: the four phases take one stretch of positions after another, in either mode. -/
theorem roundPositionsAreConsecutive : Obligations.RoundPositionsAreConsecutive := fun _ _ hm _ =>
  Engine.roundLines_pos_perm hm

end Sys2Proof.Machine
end

section
/-! PROOFS. APPLY (42_subhcie.md R98 to R112): its checks (O51) and costs (O58), when it completes and with what (O52),
when it faults (O57), and the rotation commands it amounts to (O53). -/

namespace Sys2Proof.Machine

/-! ### Checks and costs -/

theorem State.cursorOk_eq_false {s : State} : s.engine.cursorOk = false ↔
    2 ^ 64 - 1 < s.cursor.toNat + s.cc ∨ (s.decrypt = true ∧ s.cursor.toNat < s.cc) := by
  show (decide (s.cursor.toNat + s.cc ≤ 2 ^ 64 - 1) && (!s.decrypt || decide (s.cc ≤ s.cursor.toNat))) = false ↔ _
  cases s.decrypt with
  | false => simp
  | true => simp; omega

/-- Settles O51: each check of APPLY, when it is the first to fail, names its error. -/
theorem applyChecksInOrder : Obligations.ApplyChecksInOrder := by
  intro s
  have hfails (c : ErrorCode) (h : applyCheck s = some c) : CheckFails .apply s c.bits :=
    checkFails_of_commandCheck h
  unfold State.GeomOk
  refine ⟨fun hzero => hfails .zeroBlock (if_pos hzero), fun hm hn hrange => hfails .geomRange ?_,
    fun hgeom hiter => hfails .zeroRounds ?_, fun hgeom hiter hweight => hfails .badWeight ?_,
    fun hgeom hiter ha hb hg hlen => hfails .streamRange ?_,
    fun hgeom hiter ha hb hg hlo hhi hrange => hfails .cursorRange ?_⟩
  · rw [applyCheck, if_neg (by omega), if_pos hrange]
  · rw [applyCheck, if_neg (by omega), if_neg (by omega), if_pos hiter]
  · rw [applyCheck, if_neg (by omega), if_neg (by omega), if_neg (by omega), if_pos hweight]
  · rw [applyCheck, if_neg (by omega), if_neg (by omega), if_neg (by omega), if_neg (by omega), if_pos (by omega)]
  · rw [applyCheck, if_neg (by omega), if_neg (by omega), if_neg (by omega), if_neg (by omega), if_neg (by omega),
      if_pos (State.cursorOk_eq_false.mpr hrange)]

/-- Settles O58: the dimensions are at most 1024 and N_ITER is a 16-bit field. -/
theorem callCostIsBounded : Obligations.CallCostIsBounded := by
  intro s
  refine ⟨rfl, rfl, fun hm hn => ?_, fun hp hgeom => ?_⟩
  · show 4 ≤ 3 * s.sm + 3 * s.sn - 2
    omega
  · simp only [Params.legal, decide_eq_true_eq] at hp
    obtain ⟨-, hm, -, hn⟩ := hgeom
    have hround : s.engine.roundCost ≤ 6142 := by
      show 3 * s.sm + 3 * s.sn - 2 ≤ 6142
      omega
    have hiter : s.nIter ≤ 65535 := Nat.le_of_lt_succ (s.rounds.extractLsb' 0 16).isLt
    have hcall : s.engine.callCost ≤ 65535 * 6142 := Nat.mul_le_mul hiter hround
    exact ⟨hround, hcall, by omega⟩

/-! ### Completion and faults -/

theorem State.consumedDefined_iff {s : State} :
    s.ConsumedDefined ↔ s.engine.BitsDefined s.cursor.toNat s.cc := by
  have hbit (n : Nat) : (s.engine.bit n).isSome = (s.stream.read (n % s.len / 8)).isSome := by
    show ((s.stream.read (n % s.len / 8)).map _).isSome = _
    rw [Option.isSome_map]
  simp only [State.ConsumedDefined, Engine.BitsDefined, hbit]
  constructor
  · intro h n hlo hhi
    have := h (n - s.cursor.toNat) (by omega)
    rwa [Nat.add_sub_cancel' hlo] at this
  · exact fun h k hk => h _ (by omega) (by omega)

section
variable {s : State} (h : s.ApplyChecksPass)
include h

/-- The rounds of APPLY answer exactly when the block and the consumed stream bits are defined (R112). -/
theorem State.ApplyChecksPass.exists_runRounds_iff :
    (∃ m, s.engine.runRounds s.engine.roundOrder s.buf = some m) ↔ s.BlockDefined ∧ s.ConsumedDefined := by
  obtain ⟨⟨hsm, -, hsn, -⟩, hiter, -⟩ := h
  have hblock : (∃ m, rotateAll s.engine.rotations s.buf = some m) ↔ s.BlockDefined :=
    Engine.exists_rotateAll_rotations_iff hsm hiter
  simp only [Engine.runRounds_eq_some (e := s.engine) hsm hsn]
  rw [exists_and_left, hblock, State.consumedDefined_iff, and_comm]
  rfl

theorem State.ApplyChecksPass.exec_of_runRounds {m : Memory}
    (hm : s.engine.runRounds s.engine.roundOrder s.buf = some m) :
    exec .apply s = .next ((s.setBuf m).setCursor s.engine.cursorAfter).finish := by
  obtain ⟨c, hc, -⟩ | ⟨-, hnone, -⟩ | ⟨-, m', hm', hexec⟩ := execApply_cases s
  · cases (applyCheck_eq_none.mpr h).symm.trans hc
  · cases hm.symm.trans hnone
  · cases hm.symm.trans hm'
    exact hexec

theorem State.ApplyChecksPass.exec_fault_iff :
    exec .apply s = .fault .undefinedRead ↔ ¬(s.BlockDefined ∧ s.ConsumedDefined) := by
  rw [← h.exists_runRounds_iff]
  obtain ⟨c, hc, -⟩ | ⟨-, hnone, hexec⟩ | ⟨-, m, hm, -⟩ := execApply_cases s
  · cases (applyCheck_eq_none.mpr h).symm.trans hc
  · exact iff_of_true hexec (by simp [hnone])
  · simp [h.exec_of_runRounds hm, hm]

/-- The new cursor stays in range (R100, R104, R108). -/
theorem State.ApplyChecksPass.cursorAfter_toNat :
    s.engine.cursorAfter.toNat = if s.decrypt then s.cursor.toNat - s.cc else s.cursor.toNat + s.cc := by
  obtain ⟨-, -, -, -, hmax, -⟩ := h
  show (if s.decrypt then BitVec.ofNat 64 (s.cursor.toNat - s.cc)
    else BitVec.ofNat 64 (s.cursor.toNat + s.cc)).toNat = _
  split <;> exact Nat.mod_eq_of_lt (by omega)

end

/-- A ready APPLY runs its rotations on BUF and sets the cursor (R105, R109). -/
theorem State.ApplyReady.exec_apply {s : State} (h : s.ApplyReady) :
    ∃ m, rotateAll s.engine.rotations s.buf = some m ∧
      exec .apply s = .next ((s.setBuf m).setCursor s.engine.cursorAfter).finish := by
  obtain ⟨hok, hdef⟩ := h
  obtain ⟨m, hm⟩ := hok.exists_runRounds_iff.mpr hdef
  have ⟨⟨hsm, _, hsn, _⟩, _⟩ := hok
  obtain ⟨-, hrot⟩ := (Engine.runRounds_eq_some (e := s.engine) hsm hsn).mp hm
  exact ⟨m, hrot, hok.exec_of_runRounds hm⟩

/-- The permutation of the bytes that the rotations of APPLY make (R112). -/
def State.applyPerm (s : State) : Equiv.Perm Nat := rotationsPerm s.engine.rotations

theorem State.GeomOk.applyPerm_mem {s : State} (h : s.GeomOk) : s.applyPerm ∈ blockPerms (s.sm * s.sn) :=
  rotationsPerm_mem_blockPerms (Engine.rotations_lt (e := s.engine) h.1)

theorem State.GeomOk.read_of_rotateAll {s : State} (h : s.GeomOk) {m : Memory}
    (hm : rotateAll s.engine.rotations s.buf = some m) (a : Nat) : m.read a = s.buf.read (s.applyPerm a) :=
  Machine.read_of_rotateAll (Engine.rotations_nodup (e := s.engine) h.1) hm a

/-- Settles O52: the rotations permute the bytes of the block. -/
theorem applyCompletes : Obligations.ApplyCompletes := by
  intro s h
  obtain ⟨m, hrot, hexec⟩ := h.exec_apply
  have ⟨hok, _⟩ := h
  have ⟨hgeom, _⟩ := hok
  have hread := hgeom.read_of_rotateAll hrot
  have hblock := hgeom.applyPerm_mem
  refine ⟨_, hexec, rfl, hok.cursorAfter_toNat, map_read_perm hblock hread, fun a ha => ?_⟩
  exact (hread a).trans (congrArg s.buf.read (mem_blockPerms.mp hblock a ha))

/-- Settles O57: the rounds read the block and the consumed positions and nothing else. -/
theorem applyFaultsExactlyOnUndefined : Obligations.ApplyFaultsExactlyOnUndefined := by
  intro s h
  rw [h.exec_fault_iff, not_and_or, State.consumedDefined_iff]
  simp [State.BlockDefined, Engine.BitsDefined, Engine.bit, State.engine]

/-! ### The commands of the rounds -/

/-- In an m × n block the rotation command is Rotate on the bytes of `x` (R93 to R96). -/
def Issues (m n : Nat) (i : Instr) (x : Rotation) : Prop :=
  ∃ len cell, RotatesCells m n i len cell x.p x.d ∧ x.addrs = lineAddrs n (cellsOf len cell)

/-- Rotation commands issued one at a time leave the block that their rotations leave. -/
theorem execAll_of_rotateAll {is : List Instr} {xs : List Rotation} {s : State} {m : Memory} (hgeom : s.GeomOk)
    (hissue : List.Forall₂ (Issues s.sm s.sn) is xs) (h : rotateAll xs s.buf = some m) :
    ∃ u, execAll is s = .next u ∧ u.buf = m := by
  induction is generalizing s xs with
  | nil =>
    cases hissue
    cases h
    exact ⟨s, rfl, rfl⟩
  | cons i is ih =>
    obtain ⟨x, xs, ⟨len, cell, hcells, haddrs⟩, hrest, rfl⟩ := List.forall₂_cons_left_iff.mp hissue
    obtain ⟨m₁, h₁, h⟩ := rotateAll_cons_eq_some.mp h
    rw [execAll, hcells.exec_of_rotateLine hgeom (haddrs ▸ h₁)]
    exact ih (s := (s.setBuf m₁).finish) hgeom hrest h

theorem forall₂_map_range {α β : Type} {R : α → β → Prop} {n : Nat} {f : Nat → α} {g : Nat → β}
    (h : ∀ i, i < n → R (f i) (g i)) : List.Forall₂ R ((List.range n).map f) ((List.range n).map g) := by
  rw [List.forall₂_map_left_iff, List.forall₂_map_right_iff, List.forall₂_same]
  exact fun i hi => h i (List.mem_range.mp hi)

section
variable {s : State} (hgeom : s.GeomOk) (p q : Nat) {dir : Nat → Bool} (hdir : ∀ n, dir n = (s.bitAt n ^^ s.decrypt))
include hdir

theorem rowPhase_issued : List.Forall₂ (Issues s.sm s.sn) ((List.range s.sm).map fun i => .rotr i p (dir (q + i)))
    ((s.engine.rowPhase q).map (s.engine.rotation p)) := by
  rw [Engine.rowPhase, List.map_map]
  exact forall₂_map_range fun i hi => ⟨_, _, hdir (q + i) ▸ .row hi, rfl⟩

theorem colPhase_issued :
    List.Forall₂ (Issues s.sm s.sn) ((List.range s.sn).map fun j => .rotc j p (dir (q + s.sm + j)))
      ((s.engine.colPhase q).map (s.engine.rotation p)) := by
  rw [Engine.colPhase, List.map_map]
  exact forall₂_map_range fun j hj => ⟨_, _, hdir (q + s.sm + j) ▸ .col hj, rfl⟩

include hgeom

theorem antiDiagPhase_issued :
    List.Forall₂ (Issues s.sm s.sn)
      ((List.range (s.sm + s.sn - 1)).map fun k => .rota k p (dir (q + s.sm + s.sn + k)))
      ((s.engine.antiDiagPhase q).map (s.engine.rotation p)) := by
  obtain ⟨hm, -, hn, -⟩ := hgeom
  rw [Engine.antiDiagPhase, List.map_map]
  refine forall₂_map_range fun k hk => ?_
  have hk : k + 2 ≤ s.sm + s.sn := by omega
  exact ⟨_, _, hdir (q + s.sm + s.sn + k) ▸ .antiDiag hk, congrArg _ (antiDiagLine_eq_cellsOf hm hn hk)⟩

theorem diagPhase_issued :
    List.Forall₂ (Issues s.sm s.sn)
      ((List.range (s.sm + s.sn - 1)).map fun t => .rotd ((t : Int) + 1 - s.sn) p
        (dir ((q : Int) + 2 * s.sm + 3 * s.sn + ((t : Int) + 1 - s.sn) - 2).toNat))
      ((s.engine.diagPhase q).map (s.engine.rotation p)) := by
  obtain ⟨hm, -, hn, -⟩ := hgeom
  simp only [Engine.diagPhase_eq, List.bind_eq_flatMap, List.pure_def, ← List.map_eq_flatMap, List.map_map]
  refine forall₂_map_range fun t ht => ?_
  simp only [Function.comp_apply]
  have hl : (t : Int) + 1 - s.sn = 1 - (s.sn : Int) + t := by ring
  rw [hl]
  exact ⟨_, _, hdir _ ▸ .diag (by omega) (by omega), congrArg _ (diagLine_eq_cellsOf ..)⟩

end

theorem encryptRound_issued {s : State} (hgeom : s.GeomOk) (hmode : s.decrypt = false) (r : Nat) :
    List.Forall₂ (Issues s.sm s.sn) (s.encryptRound r) (s.engine.roundRotations r) := by
  have hdir (n : Nat) : s.bitAt n = (s.bitAt n ^^ s.decrypt) := by rw [hmode, Bool.xor_false]
  have hlines : s.engine.roundLines (s.q r) = _ := if_neg (Bool.eq_false_iff.mp hmode)
  show List.Forall₂ _ _ ((s.engine.roundLines (s.q r)).map (s.engine.rotation (s.p r)))
  rw [hlines]
  simp only [List.map_append]
  exact List.rel_append (List.rel_append (List.rel_append (rowPhase_issued _ _ hdir) (colPhase_issued _ _ hdir))
    (antiDiagPhase_issued hgeom _ _ hdir)) (diagPhase_issued hgeom _ _ hdir)

theorem decryptRound_issued {s : State} (hgeom : s.GeomOk) (hmode : s.decrypt = true) (r : Nat) :
    List.Forall₂ (Issues s.sm s.sn) (s.decryptRound r) (s.engine.roundRotations r) := by
  have hdir (n : Nat) : (!s.bitAt n) = (s.bitAt n ^^ s.decrypt) := by rw [hmode, Bool.xor_true]
  have hlines : s.engine.roundLines (s.q r) = _ := if_pos hmode
  show List.Forall₂ _ _ ((s.engine.roundLines (s.q r)).map (s.engine.rotation (s.p r)))
  rw [hlines]
  simp only [List.map_append, State.decryptRound]
  exact List.rel_append (List.rel_append (List.rel_append (diagPhase_issued hgeom _ _ hdir)
    (antiDiagPhase_issued hgeom _ _ hdir)) (colPhase_issued _ _ hdir)) (rowPhase_issued _ _ hdir)

theorem applyCommands_issued {s : State} (hgeom : s.GeomOk) :
    List.Forall₂ (Issues s.sm s.sn) s.applyCommands s.engine.rotations := by
  have hrounds {rs : List Nat} {f : Nat → List Instr}
      (h : ∀ r, List.Forall₂ (Issues s.sm s.sn) (f r) (s.engine.roundRotations r)) :
      List.Forall₂ (Issues s.sm s.sn) (rs.flatMap f) (rs.flatMap s.engine.roundRotations) :=
    List.rel_flatMap (R := Eq) (List.forall₂_eq_eq_eq ▸ rfl) fun r _ heq => heq ▸ h r
  unfold State.applyCommands Engine.rotations Engine.roundOrder
  show List.Forall₂ _ _ ((if s.decrypt then (List.range s.nIter).reverse else List.range s.nIter).flatMap _)
  split
  case isTrue hmode => exact hrounds (decryptRound_issued hgeom hmode)
  case isFalse hmode => exact hrounds (encryptRound_issued hgeom (Bool.eq_false_iff.mpr hmode))

/-- Settles O53: the commands are the rotations of the rounds, one for one. -/
theorem applyIsItsRotationCommands : Obligations.ApplyIsItsRotationCommands := by
  intro s h
  have ⟨⟨hgeom, _⟩, _⟩ := h
  obtain ⟨m, hrot, hexec⟩ := h.exec_apply
  obtain ⟨u, hcommands, hbuf⟩ := execAll_of_rotateAll hgeom (applyCommands_issued hgeom) hrot
  exact ⟨_, u, hexec, hcommands, hbuf⟩

end Sys2Proof.Machine
end


section
/-! PROOFS. The inverse of APPLY (42_subhcie.md R110; O54) and the 2 × 2 block (R111; O55): the rounds of the other mode
make the inverse permutation, because the lines of one phase are disjoint and every rotation is undone by its twin. -/

namespace Sys2Proof.Machine

namespace Engine

variable {e : Engine} {p q r : Nat}

/-- The same call in the other mode, on a stream memory of its own. -/
def otherMode (e : Engine) (stream : Memory) : Engine := { e with decrypt := !e.decrypt, stream := stream }

theorem otherMode_roundLines {stream : Memory} : (e.otherMode stream).roundLines q =
    if e.decrypt then e.rowPhase q ++ e.colPhase q ++ e.antiDiagPhase q ++ e.diagPhase q
    else e.diagPhase q ++ e.antiDiagPhase q ++ e.colPhase q ++ e.rowPhase q := by
  show (if !e.decrypt then _ else _) = _
  cases e.decrypt <;> rfl

theorem otherMode_roundOrder {stream : Memory} : (e.otherMode stream).roundOrder = e.roundOrder.reverse := by
  show (if !e.decrypt then (List.range e.nIter).reverse else List.range e.nIter) = _
  unfold roundOrder
  cases e.decrypt <;> simp

/-- Lines that are told apart by a number of their cells, one more for each line, share no byte. -/
theorem rotations_disjoint {n : Nat} {line : Nat → List Cell} {pos : Nat → Nat} {key : Cell → Int} {base : Int}
    (hblock : ∀ i, i < n → InBlock e.sm e.sn (line i)) (hkey : ∀ i, i < n → ∀ c ∈ line i, key c = base + i) :
    (((List.range n).map fun i => LineTurn.mk (line i) (pos i)).map (e.rotation p)).Pairwise
      fun x y => x.addrs.Disjoint y.addrs := by
  rw [List.map_map, List.pairwise_map]
  refine List.pairwise_lt_range.imp_of_mem fun {i j} hi hj hlt => ?_
  rw [List.mem_range] at hi hj
  refine (hblock i hi).lineAddrs_disjoint (hblock j hj) fun c hc hc' => ?_
  have := (hkey i hi c hc).symm.trans (hkey j hj c hc')
  omega

/-- The lines of a phase share no byte (R88), so their twins undo them in any order (R91). -/
theorem phases_undone (hm : 1 ≤ e.sm) {L : List LineTurn}
    (hL : L = e.rowPhase q ∨ L = e.colPhase q ∨ L = e.antiDiagPhase q ∨ L = e.diagPhase q) :
    rotationsPerm ((L.map (e.rotation p)).map Rotation.flip) = (rotationsPerm (L.map (e.rotation p)))⁻¹ := by
  have hlines : ∀ x ∈ L, x ∈ e.roundLines q := by
    intro x hx
    simp only [(e.roundLines_perm q).mem_iff, List.mem_append]
    obtain rfl | rfl | rfl | rfl := hL <;> simp [hx]
  refine rotationsPerm_flip (List.forall_mem_map.mpr fun x hx => roundLines_nodup hm x (hlines x hx)) ?_
  obtain rfl | rfl | rfl | rfl := hL
  · refine rotations_disjoint (key := fun c => c.1) (base := 0) (fun i hi => rowLine_inBlock hi) fun i hi c hc => ?_
    obtain ⟨hrow, -⟩ := mem_rowLine.mp hc
    omega
  · refine rotations_disjoint (key := fun c => c.2) (base := 0) (fun j hj => colLine_inBlock hj) fun j hj c hc => ?_
    obtain ⟨-, hcol⟩ := mem_colLine.mp hc
    omega
  · refine rotations_disjoint (key := fun c => c.1 + c.2) (base := 0)
      (fun k hk => antiDiagLine_inBlock hm (by omega)) fun k hk c hc => ?_
    obtain ⟨-, -, hsum⟩ := (mem_antiDiagLine hm (by omega)).mp hc
    omega
  · rw [diagPhase_eq]
    refine rotations_disjoint (key := fun c => c.1 - c.2) (base := 1 - e.sn) (fun _ _ => diagLine_inBlock)
      fun t ht c hc => ?_
    obtain ⟨-, -, hdiff⟩ := mem_diagLine.mp hc
    exact hdiff

section
variable {stream : Memory} (hm : 1 ≤ e.sm) (hbit : ∀ n, (e.otherMode stream).bit n = e.bit n)
include hbit

theorem otherMode_rotation (x : LineTurn) : (e.otherMode stream).rotation p x = (e.rotation p x).flip := by
  simp only [rotation, Rotation.flip, definedBit, hbit]
  simp [otherMode]

theorem otherMode_definedShift : (e.otherMode stream).definedShift r = e.definedShift r := by
  have hstart : (e.otherMode stream).roundStart r = e.roundStart r := rfl
  simp only [definedShift, definedBit, hbit, hstart]
  rfl

include hm

theorem rotationsPerm_otherMode_round :
    rotationsPerm ((e.otherMode stream).roundRotations r) = (rotationsPerm (e.roundRotations r))⁻¹ := by
  have hrot : (e.otherMode stream).rotation (e.definedShift r) = Rotation.flip ∘ e.rotation (e.definedShift r) :=
    funext (otherMode_rotation hbit)
  have hundo := @phases_undone e (e.definedShift r) (e.roundStart r) hm
  show rotationsPerm (((e.otherMode stream).roundLines (e.roundStart r)).map _) = _
  rw [otherMode_definedShift hbit, hrot, otherMode_roundLines, roundRotations, roundLines]
  cases e.decrypt <;>
    simp only [if_true, Bool.false_eq_true, if_false, ← List.map_map, List.map_append, rotationsPerm_append, hundo,
      true_or, or_true, mul_inv_rev, mul_assoc]

/-- The call in the other mode makes the inverse permutation (R110). -/
theorem rotationsPerm_otherMode :
    rotationsPerm (e.otherMode stream).rotations = (rotationsPerm e.rotations)⁻¹ := by
  rw [rotations, rotations, rotationsPerm_flatMap, rotationsPerm_flatMap, otherMode_roundOrder, List.prod_inv_reverse,
    ← List.map_reverse, ← List.map_reverse, List.map_map]
  exact congrArg List.prod (List.map_congr_left fun r _ => rotationsPerm_otherMode_round hm hbit)

end

end Engine

/-! ### The inverse law -/

/-- The stream bits are those of the first L bits of the stream memory (R48). -/
theorem Engine.otherMode_bit {e : Engine} {stream : Memory} (hlen : 1 ≤ e.len)
    (h : ∀ k, k < (e.len + 7) / 8 → stream.read k = e.stream.read k) (n : Nat) :
    (e.otherMode stream).bit n = e.bit n := by
  have hmod := Nat.mod_lt n hlen
  show (stream.read (n % e.len / 8)).map _ = (e.stream.read (n % e.len / 8)).map _
  rw [h _ (by omega)]
  rfl

/-- With the operands and stream bits of a ready call, the call in the other mode is ready too on a defined block, if it
starts far enough from position 0 (R99, R100). -/
theorem State.ApplyReady.otherMode {s u : State} (h : s.ApplyReady) (hparams : u.params = s.params)
    (hengine : u.engine = s.engine.otherMode u.stream)
    (hbit : ∀ n, (s.engine.otherMode u.stream).bit n = s.engine.bit n) (hdef : u.BlockDefined)
    (hroom : s.cc ≤ s.cursor.toNat) : u.ApplyReady := by
  obtain ⟨⟨hgeom, hiters, hweights, hlens, hmax, -⟩, -, hconsumed⟩ := h
  have hsm : u.sm = s.sm := congrArg Engine.sm hengine
  have hsn : u.sn = s.sn := congrArg Engine.sn hengine
  have hiter : u.nIter = s.nIter := congrArg Engine.nIter hengine
  have halpha : u.alpha = s.alpha := congrArg Engine.alpha hengine
  have hbeta : u.beta = s.beta := congrArg Engine.beta hengine
  have hgamma : u.gamma = s.gamma := congrArg Engine.gamma hengine
  have hlen : u.len = s.len := congrArg Engine.len hengine
  have hcursor : u.cursor.toNat = s.cursor.toNat := congrArg Engine.c0 hengine
  have hcc : u.cc = s.cc := congrArg Engine.callCost hengine
  refine ⟨?_, hdef, ?_⟩
  · simp only [State.ApplyChecksPass, State.GeomOk, hparams, hsm, hsn, hiter, halpha, hbeta, hgamma, hlen, hcursor, hcc]
    exact ⟨hgeom, hiters, hweights, hlens, hmax, fun _ => hroom⟩
  · rw [State.consumedDefined_iff, hengine, hcursor, hcc]
    exact fun k hlo hhi => hbit k ▸ State.consumedDefined_iff.mp hconsumed k hlo hhi

/-- Settles O54: the second call makes the inverse permutation of the first. -/
theorem decryptUndoesEncrypt : Obligations.DecryptUndoesEncrypt := by
  intro s t u hready hs hexec hu hparams hsm hsn hiter halpha hbeta hgamma hlen hcursor hroom hstream hbuf
  have ⟨⟨hgeom, _, _, ⟨hlo, _⟩, _⟩, hdef, _⟩ := hready
  have hblock := hgeom.applyPerm_mem
  obtain ⟨m, hrot, hnext⟩ := hready.exec_apply
  cases hexec.symm.trans hnext
  have hread := hgeom.read_of_rotateAll hrot
  have hengine : u.engine = s.engine.otherMode u.stream := by
    simp [State.engine, Engine.otherMode, hs, hu, hsm, hsn, hiter, halpha, hbeta, hgamma, hlen, hcursor]
  have hbit := Engine.otherMode_bit (e := s.engine) hlo hstream
  have hdef' : u.BlockDefined := by
    intro a ha
    rw [hsm, hsn] at ha
    rw [hbuf a ha]
    exact hread a ▸ hdef _ (lt_of_mem_blockPerms hblock ha)
  have hready' := hready.otherMode hparams hengine hbit hdef' hroom
  have ⟨hok', _⟩ := hready'
  have ⟨hgeom', _⟩ := hok'
  obtain ⟨m', hrot', hexec'⟩ := hready'.exec_apply
  have hinv : u.applyPerm = s.applyPerm⁻¹ := by
    rw [State.applyPerm, hengine]
    exact Engine.rotationsPerm_otherMode (e := s.engine) hgeom.1 hbit
  refine ⟨_, hexec', fun a ha => ?_, ?_⟩
  · calc m'.read a = u.buf.read (s.applyPerm⁻¹ a) := hinv ▸ hgeom'.read_of_rotateAll hrot' a
      _ = m.read (s.applyPerm⁻¹ a) := hbuf _ (lt_of_mem_blockPerms (inv_mem hblock) ha)
      _ = s.buf.read a := by rw [hread, ← Equiv.Perm.mul_apply, mul_inv_cancel, Equiv.Perm.one_apply]
  · have hcc : u.cc = s.cc := congrArg Engine.callCost hengine
    refine hok'.cursorAfter_toNat.trans ?_
    rw [if_pos hu, hcursor, hcc]

/-! ### The 2 × 2 block -/

/-- On a line of at most two bytes only the parity of the shift counts, and the direction does not (R111). -/
theorem Rotation.perm_of_short {x : Rotation} (hn : x.addrs.Nodup) (hlen : x.addrs.length ≤ 2) :
    x.perm = x.addrs.formPerm ^ (x.p % 2) := by
  rw [Rotation.perm]
  obtain hshort | htwo : x.addrs.length ≤ 1 ∨ x.addrs.length = 2 := by omega
  · rw [(List.formPerm_eq_one_iff _ hn).mpr hshort, one_pow, one_pow]
  · have hswap := List.formPerm_pow_length_eq_one_of_nodup x.addrs hn
    have hparity : effectiveShift x.addrs.length x.p x.d % 2 = x.p % 2 := by
      rw [htwo, effectiveShift]
      split <;> omega
    rw [pow_eq_pow_mod _ (htwo ▸ hswap), hparity]

/-- The bytes of the lines of a 2 × 2 block, in the order of Encrypt mode (R84 to R86, R103). -/
def linesTwoByTwo : List (List Nat) := [[0, 1], [2, 3], [0, 2], [1, 3], [0], [2, 1], [3], [1], [0, 3], [2]]

namespace Engine

variable {e : Engine} {q r : Nat}

theorem roundLines_twoByTwo (hm : e.sm = 2) (hn : e.sn = 2) (hmode : e.decrypt = false) :
    (e.roundLines q).map (fun x => lineAddrs e.sn x.line) = linesTwoByTwo := by
  rw [roundLines, hmode]
  simp only [rowPhase, colPhase, antiDiagPhase, diagPhase_eq, hm, hn]
  rfl

end Engine

/-- The swaps of rows, columns, the anti-diagonal and the diagonal compose to the identity (R111). -/
theorem prod_formPerm_linesTwoByTwo : (linesTwoByTwo.map List.formPerm).prod = 1 := by
  have hblock : (linesTwoByTwo.map List.formPerm).prod ∈ blockPerms 4 := by
    have hlt : ∀ l ∈ linesTwoByTwo, ∀ x ∈ l, x < 4 := by decide
    refine list_prod_mem (List.forall_mem_map.mpr fun l hl => mem_blockPerms.mpr fun a ha => ?_)
    exact List.formPerm_apply_of_notMem fun hmem => (hlt l hl a hmem).not_ge ha
  ext a
  by_cases ha : a < 4
  · interval_cases a <;> decide
  · exact mem_blockPerms.mp hblock a (by omega)

namespace Engine

variable {e : Engine}

theorem rotationsPerm_round_twoByTwo (hm : e.sm = 2) (hn : e.sn = 2) (hmode : e.decrypt = false) (r : Nat) :
    rotationsPerm (e.roundRotations r) = 1 := by
  have hlines := roundLines_twoByTwo (q := e.roundStart r) hm hn hmode
  have hshort : ∀ l ∈ linesTwoByTwo, l.length ≤ 2 := by decide
  have hperm : ∀ x ∈ e.roundLines (e.roundStart r), (e.rotation (e.definedShift r) x).perm =
      (lineAddrs e.sn x.line).formPerm ^ (e.definedShift r % 2) := fun x hx =>
    Rotation.perm_of_short (roundLines_nodup (by omega) x hx) (hshort _ (hlines ▸ List.mem_map_of_mem hx))
  calc rotationsPerm (e.roundRotations r)
      = ((e.roundLines (e.roundStart r)).map fun x =>
          (lineAddrs e.sn x.line).formPerm ^ (e.definedShift r % 2)).prod := by
        rw [rotationsPerm, roundRotations, List.map_map]
        exact congrArg List.prod (List.map_congr_left hperm)
    _ = (linesTwoByTwo.map fun l => l.formPerm ^ (e.definedShift r % 2)).prod := by
        rw [← hlines, List.map_map]
        rfl
    _ = 1 := by
        rcases Nat.mod_two_eq_zero_or_one (e.definedShift r) with heven | hodd
        · simp [heven]
        · simpa only [hodd, pow_one] using prod_formPerm_linesTwoByTwo

theorem rotationsPerm_twoByTwo (hm : e.sm = 2) (hn : e.sn = 2) : rotationsPerm e.rotations = 1 := by
  have hencrypt (e : Engine) (hm : e.sm = 2) (hn : e.sn = 2) (hmode : e.decrypt = false) :
      rotationsPerm e.rotations = 1 := by
    rw [rotations, rotationsPerm_flatMap]
    exact List.prod_eq_one (List.forall_mem_map.mpr fun r _ => rotationsPerm_round_twoByTwo hm hn hmode r)
  cases hmode : e.decrypt with
  | false => exact hencrypt e hm hn hmode
  | true =>
    have hother := hencrypt (e.otherMode e.stream) hm hn (by rw [otherMode, hmode]; rfl)
    rwa [rotationsPerm_otherMode (by omega) fun _ => rfl, inv_eq_one] at hother

end Engine

/-- Settles O55: every round makes the identical permutation. -/
theorem twoByTwoBlockIsUnchanged : Obligations.TwoByTwoBlockIsUnchanged := by
  intro s hready hm hn hwf
  have ⟨⟨hgeom, _⟩, _⟩ := hready
  obtain ⟨m, hrot, hexec⟩ := hready.exec_apply
  have hread := hgeom.read_of_rotateAll hrot
  rw [State.applyPerm, Engine.rotationsPerm_twoByTwo (e := s.engine) hm hn] at hread
  exact ⟨_, hexec, Memory.ext_of_read (rotateAll_wf hrot hwf) hwf hread⟩

end Sys2Proof.Machine
end

section
/-! PROOFS. The control commands and the host's writes to an idle unit (43_control.md R113 to R117; O9, O10, O18,
O21). -/

namespace Sys2Proof.Machine

/-! ### SRST and NOP -/

/-- Settles O9: SRST is the reset of R41 in every state. -/
theorem srstGivesPowerOnState : Obligations.SrstGivesPowerOnState := fun s =>
  show execSrst s = .next s.afterReset from rfl

theorem exec_nop_of_idle {s : State} (hidle : s.pending = none) : exec .nop s = .next s :=
  congrArg Host.Outcome.next (State.finish_of_idle hidle)

/-- Settles O10: an accepted NOP has no checks and runs at once. -/
theorem nopChangesNothing : Obligations.NopChangesNothing := by
  refine fun s => ⟨rfl, exec_nop_of_idle, fun herr hidle => ?_⟩
  have hdec : decode 0x0000000000000000 = .command .nop := by decide
  calc submit 0x0000000000000000 s
      = acceptCommand .nop 0x0000000000000000 s := submit_of_idle hdec herr hidle
    _ = exec .nop s := rfl
    _ = .next s := exec_nop_of_idle hidle

/-! ### Writes to an idle unit -/

section
variable {s : State} (hidle : s.pending = none)
include hidle

theorem writeRegister_of_idle {r : Reg} {v : Word} (hcmd : r ≠ .cmd) (hstatus : r ≠ .status) :
    writeRegister r v s = .next (s.storeReg r v) := by
  obtain ⟨hr, -⟩ | ⟨hr, -⟩ | ⟨-, -, hbusy, -⟩ | ⟨-, -, -, h⟩ := writeRegister_cases r v s
  · exact absurd hr hcmd
  · exact absurd hr hstatus
  · exact absurd hidle (State.busy_eq_true.mp hbusy)
  · exact h

theorem writeBuf_of_idle (a : Nat) (b : Byte) : writeBuf a b s = .next (s.setBuf (s.buf.write a b)) :=
  if_neg (by simp [State.busy_eq_false.mpr hidle])

theorem writeStream_of_idle (t : Nat) (b : Byte) : writeStream t b s = .next (s.setStream (s.stream.write t b)) :=
  if_neg (by simp [State.busy_eq_false.mpr hidle])

end

/-- Settles O18: every register but CMD and STATUS, which have rules of their own, is stored by `storeReg`. -/
theorem registerWriteStoresUnreservedBits : Obligations.RegisterWriteStoresUnreservedBits := by
  intro s x v hop hidle
  have hstore (r : Reg) (hcmd : r ≠ .cmd) (hstatus : r ≠ .status)
      (ht : resolve s.params x.addr x.width = some (.reg r)) : hostAccess x s = .next (s.storeReg r v) :=
    (hostAccess_write_reg hop ht).trans (writeRegister_of_idle hidle hcmd hstatus)
  exact ⟨hstore .keyX0 nofun nofun, hstore .keyMu nofun nofun, hstore .streamLen nofun nofun,
    hstore .geom nofun nofun, hstore .rounds nofun nofun, hstore .weights nofun nofun, hstore .mode nofun nofun,
    hstore .cursor nofun nofun, hstore .id nofun nofun, hstore .cap nofun nofun⟩

/-- Settles O21: the write is `Memory.write` on the one memory. -/
theorem byteWriteDefinesOneByte : Obligations.ByteWriteDefinesOneByte := by
  intro s x v a hop hidle
  refine ⟨fun ht => ⟨s.setBuf (s.buf.write a (v.extractLsb' 0 8)), ?_, rfl, s.buf.read_write a _⟩,
    fun ht => ⟨s.setStream (s.stream.write a (v.extractLsb' 0 8)), ?_, rfl, s.stream.read_write a _⟩⟩
  · rw [hostAccess_of_resolve ht, hop]
    exact writeBuf_of_idle hidle a _
  · rw [hostAccess_of_resolve ht, hop]
    exact writeStream_of_idle hidle a _

end Sys2Proof.Machine
end

section
/-! PROOFS. Raising an error (60_exceptions.md R120 to R122; O25), and a CMD write other than SRST case by case (R121,
R123; O6, O7). -/

namespace Sys2Proof.Machine

/-! ### Raising an error -/

theorem State.raise_of_no_err {s : State} (h : s.err = false) (c : ErrorCode) :
    s.raise c = { s with err := true, errCode := c.bits } := by
  simp [State.raise, h, State.setError]

/-- Settles O25: raising stores a code only while ERR = 0. -/
theorem firstErrorWins : Obligations.FirstErrorWins :=
  ⟨fun _ c => ⟨fun h => State.raise_of_no_err h c, fun h => State.raise_of_err h c⟩, rfl⟩

/-! ### The cases of R123 -/

section
variable {w : Word} {s : State} (hsrst : opField w ≠ 0x01)
include hsrst

/-- ERR = 1 refuses every command but SRST (R123 case 2). -/
theorem submit_of_err (herr : s.err = true) : submit w s = .next s := by
  rw [submit, if_neg hsrst, if_pos herr]

theorem submit_of_illegalOpcode (herr : s.err = false) (hidle : s.pending = none) (hdec : decode w = .illegalOpcode) :
    submit w s = .next { s with err := true, errCode := 0x01 } := by
  rw [submit, if_neg hsrst]
  simp [herr, State.busy_eq_false.mpr hidle, hdec, State.raise_of_no_err, ErrorCode.bits]

theorem submit_of_reservedBits (herr : s.err = false) (hidle : s.pending = none) (hdec : decode w = .reservedBits) :
    submit w s = .next { s with err := true, errCode := 0x02 } := by
  rw [submit, if_neg hsrst]
  simp [herr, State.busy_eq_false.mpr hidle, hdec, State.raise_of_no_err, ErrorCode.bits]

end

/-- Only a word whose OP is 0x01 decodes to SRST (R68). -/
theorem ne_srst_of_decode {w : Word} {i : Instr} (hsrst : opField w ≠ 0x01) (hdec : decode w = .command i) :
    i ≠ .srst := by
  rintro rfl
  exact hsrst (opField_of_decode hdec)

section
variable {w : Word} {s : State} {i : Instr} (herr : s.err = false) (hidle : s.pending = none)
  (hdec : decode w = .command i)
include herr hidle hdec

theorem submit_of_not_commandOk (h : ¬CommandOk i s) :
    ∃ c ∈ errorCodes, submit w s = .next { s with err := true, errCode := c } := by
  obtain ⟨c, hc⟩ := Option.ne_none_iff_exists'.mp (mt commandCheck_eq_none.mp h)
  exact ⟨c.bits, c.bits_mem, submit_of_check_fails hdec herr hidle hc⟩

theorem submit_of_nop (h : i = .nop) : submit w s = .next s := by
  subst h
  exact (submit_of_idle hdec herr hidle).trans (exec_nop_of_idle hidle)

theorem submit_of_commandOk (h : CommandOk i s) (hnop : i ≠ .nop) (hsrst : i ≠ .srst) :
    submit w s = .next (s.setPending (some w)) := by
  have hstay : staysPending i = true := by simpa [hnop, hsrst] using staysPending_eq_false (i := i)
  exact (submit_of_idle hdec herr hidle).trans (acceptCommand_of_stays (commandCheck_eq_none.mpr h) hstay)

end

/-- Settles O7: one lemma for each case of R123, in its order. -/
theorem acceptanceOrder : Obligations.AcceptanceOrder := by
  intro w s hsrst
  refine ⟨submit_of_err hsrst, fun herr hpend => ?_, submit_of_illegalOpcode hsrst, submit_of_reservedBits hsrst,
    fun i herr hidle hdec => ⟨submit_of_not_commandOk herr hidle hdec, submit_of_nop herr hidle hdec, fun hok hnop =>
      submit_of_commandOk herr hidle hdec hok hnop (ne_srst_of_decode hsrst hdec)⟩⟩
  rw [submit_of_busy (State.busy_eq_true.mpr hpend) hsrst, State.raise_of_no_err herr]
  rfl

/-- Settles O6: each case of R123 has one of the three effects. -/
theorem acceptanceHasOneEffect : Obligations.AcceptanceHasOneEffect := by
  intro w s hsrst
  obtain ⟨hrefused, hbusy, hillegal, hreserved, hcommand⟩ := acceptanceOrder w s hsrst
  by_cases herr : s.err = true
  case pos => exact .inl (hrefused herr)
  replace herr : s.err = false := eq_false_of_ne_true herr
  by_cases hidle : s.pending = none
  case neg => exact .inr (.inl ⟨herr, 0x03, by decide, hbusy herr hidle⟩)
  cases hdec : decode w with
  | illegalOpcode => exact .inr (.inl ⟨herr, 0x01, by decide, hillegal herr hidle hdec⟩)
  | reservedBits => exact .inr (.inl ⟨herr, 0x02, by decide, hreserved herr hidle hdec⟩)
  | command i =>
    obtain ⟨hfails, hnone, haccepted⟩ := hcommand i herr hidle hdec
    by_cases hok : CommandOk i s
    case neg => exact .inr (.inl ⟨herr, hfails hok⟩)
    by_cases hnop : i = .nop
    case pos => exact .inl (hnone hnop)
    exact .inr (.inr ⟨herr, hidle, i, rfl, hnop, ne_srst_of_decode hsrst hdec, haccepted hok hnop⟩)

end Sys2Proof.Machine
end

section
/-! PROOFS. How a run ends (70_reset_and_hazards.md R146, R147; 93_implementation_defined.md U5): the accepted command
completes once the schedule is over (O15), and which runs have a final state (O59). -/

namespace Sys2Proof.Machine

/-! ### A unit's turn leaves nothing pending -/

/-- If the outcome goes on, nothing is pending in its state. -/
def LeavesIdle : Host.Outcome State Fault Refusal → Prop
  | .next t => t.pending = none
  | .fault _ => True
  | .refused _ => True

@[simp] theorem leavesIdle_next (t : State) : LeavesIdle (.next t) ↔ t.pending = none := Iff.rfl

@[simp] theorem leavesIdle_fault (f : Fault) : LeavesIdle (.fault f) := trivial

theorem rotateCommand_leavesIdle (s : State) (selOk : Bool) (line : List Cell) (p : Nat) (d : Bool) :
    LeavesIdle (rotateCommand s selOk line p d) := by
  obtain ⟨c, -, h⟩ | ⟨-, -, h⟩ | ⟨-, m, -, h⟩ := rotateCommand_cases s selOk line p d <;> simp [h]

theorem execApply_leavesIdle (s : State) : LeavesIdle (execApply s) := by
  obtain ⟨c, -, h⟩ | ⟨-, -, h⟩ | ⟨-, m, -, h⟩ := execApply_cases s <;> simp [h]

theorem execGen_leavesIdle (s : State) : LeavesIdle (execGen s) := by
  obtain ⟨c, -, h⟩ | ⟨-, -, h⟩ | ⟨-, -, h⟩ := execGen_cases s <;> simp [h]

theorem exec_leavesIdle (i : Instr) (s : State) : LeavesIdle (exec i s) := by
  cases i with
  | nop => exact s.finish_pending
  | srst => exact s.afterReset_pending
  | gen => exact execGen_leavesIdle s
  | rotr row p d => exact rotateCommand_leavesIdle ..
  | rotc col p d => exact rotateCommand_leavesIdle ..
  | rota k p d => exact rotateCommand_leavesIdle ..
  | rotd l p d => exact rotateCommand_leavesIdle ..
  | apply => exact execApply_leavesIdle s

theorem unitTurn_leavesIdle (s : State) : LeavesIdle (unitTurn s) := by
  cases hp : s.pending with
  | none => rwa [unitTurn_idle hp]
  | some w =>
    rw [unitTurn_pending hp]
    unfold runPending
    split
    · exact exec_leavesIdle ..
    · exact State.finish_pending _
    · exact State.finish_pending _

/-- Only an access of the host can leave a command pending. -/
theorem step_leavesIdle {s : State} (h : s.hostActs = false) : LeavesIdle (step s) := by
  match hsched : s.schedule with
  | [] => rw [step_of_empty hsched]; exact unitTurn_leavesIdle s
  | .unit :: rest => rw [step_of_turn hsched]; exact unitTurn_leavesIdle _
  | .powerOn :: rest => rw [step_of_turn hsched]; exact State.afterReset_pending _
  | .host x :: rest => simp [State.hostActs_of_turn hsched] at h

theorem pending_of_step {s t : State} (hact : s.hostActs = false) (h : step s = .next t) : t.pending = none := by
  have hidle := step_leavesIdle hact
  rwa [h] at hidle

/-! ### Runs -/

section
variable {M : Host.Core} {m n : Nat} {s t : M.State}

theorem run_zero_eq_next : M.run 0 s = .next t ↔ s = t := by simp [Host.Core.run]

theorem run_succ_eq_next : M.run (n + 1) s = .next t ↔ ∃ u, M.step s = .next u ∧ M.run n u = .next t := by
  rw [Host.Core.run]
  cases M.step s <;> simp

theorem run_add_eq_next : M.run (m + n) s = .next t ↔ ∃ u, M.run m s = .next u ∧ M.run n u = .next t := by
  induction m generalizing s with
  | zero => simp [run_zero_eq_next]
  | succ m ih =>
    simp only [Nat.succ_add, run_succ_eq_next, ih]
    exact ⟨fun ⟨u, hu, v, hv, ht⟩ => ⟨v, ⟨u, hu, hv⟩, ht⟩, fun ⟨v, ⟨u, hu, hv⟩, ht⟩ => ⟨u, hu, v, hv, ht⟩⟩

end

/-- Each step of a run uses up one turn. -/
theorem schedule_of_run {n : Nat} {s t : State} (h : Host.Core.run Sys2Proof.core n s = .next t) :
    t.schedule = s.schedule.drop n := by
  induction n generalizing s with
  | zero => rw [run_zero_eq_next.mp h, List.drop_zero]
  | succ n ih =>
    obtain ⟨u, hstep, hrun⟩ := run_succ_eq_next.mp h
    obtain ⟨-, hsched⟩ := parametersNeverChange s u hstep
    rw [ih hrun, hsched, List.drop_tail]

/-- Settles O15: the turn after the last scheduled one is the unit's, which leaves nothing pending. -/
theorem pendingCompletesWhenTheScheduleEnds : Obligations.PendingCompletesWhenTheScheduleEnds := by
  intro s t h
  refine ⟨by rw [schedule_of_run h]; simp, ?_⟩
  obtain ⟨u, hrun, hlast⟩ := run_add_eq_next.mp h
  obtain ⟨v, hstep, hv⟩ := run_succ_eq_next.mp hlast
  obtain rfl := run_zero_eq_next.mp hv
  have hact : u.hostActs = false := by simp [State.hostActs, schedule_of_run hrun]
  exact pending_of_step hact hstep

/-! ### The final state -/

theorem run_of_finalAfter {n : Nat} {quiet : Bool} {s t : State} (h : finalAfter n quiet s = some t) :
    Host.Core.run Sys2Proof.core n s = .next t := by
  induction n generalizing quiet s with
  | zero =>
    obtain ⟨-, hst⟩ := Option.ite_none_right_eq_some.mp h
    exact run_zero_eq_next.mpr (Option.some.inj hst)
  | succ n ih =>
    unfold finalAfter at h
    split at h
    case h_1 u hstep => exact run_succ_eq_next.mpr ⟨u, hstep, ih h⟩
    case h_2 => cases h
    case h_3 => cases h

/-- Whether a run has a final state is not decided before the host's last access: right after it, the run stands as one
that has just begun. -/
theorem finalAfter_of_host {x : Access} {before after : List Turn} {s u : State}
    (hsched : s.schedule = before ++ .host x :: after)
    (hrun : Host.Core.run Sys2Proof.core (before.length + 1) s = .next u) (n : Nat) (quiet : Bool) :
    finalAfter (n + (before.length + 1)) quiet s = finalAfter n u.pending.isNone u := by
  induction before generalizing s quiet with
  | nil =>
    obtain ⟨v, hstep, hv⟩ := run_succ_eq_next.mp hrun
    obtain rfl := run_zero_eq_next.mp hv
    exact (finalAfter_of_next hstep n quiet).trans (by rw [State.hostActs_of_turn hsched]; rfl)
  | cons y before ih =>
    obtain ⟨v, hstep, hv⟩ := run_succ_eq_next.mp hrun
    obtain ⟨-, htail⟩ := parametersNeverChange s v hstep
    rw [hsched] at htail
    exact (finalAfter_of_next hstep _ quiet).trans (ih htail hv _)

section
variable {n : Nat} {s t : State} (hnohost : ∀ y ∈ s.schedule, y.isHost = false)
include hnohost

theorem State.hostActs_of_no_host : s.hostActs = false := by
  unfold State.hostActs
  split
  · rfl
  · next y rest hsched => exact hnohost y (by simp [hsched])

theorem no_host_of_step (h : step s = .next t) : ∀ y ∈ t.schedule, y.isHost = false := by
  obtain ⟨-, hsched⟩ := parametersNeverChange s t h
  rw [hsched]
  exact fun y hy => hnohost y (List.mem_of_mem_tail hy)

/-- Without the host a unit that is idle stays so. -/
theorem pending_of_run (hidle : s.pending = none) (h : Host.Core.run Sys2Proof.core n s = .next t) :
    t.pending = none := by
  induction n generalizing s with
  | zero => rwa [← run_zero_eq_next.mp h]
  | succ n ih =>
    obtain ⟨u, hstep, hrun⟩ := run_succ_eq_next.mp h
    exact ih (no_host_of_step hnohost hstep) (pending_of_step (State.hostActs_of_no_host hnohost) hstep) hrun

/-- Without the host a run that answers is judged by the state it ends in and by `quiet`, which nothing changes. -/
theorem finalAfter_of_no_host (h : Host.Core.run Sys2Proof.core n s = .next t) (quiet : Bool) :
    finalAfter n quiet s = if t.schedule = [] ∧ t.pending = none ∧ quiet = true then some t else none := by
  induction n generalizing s with
  | zero => rw [← run_zero_eq_next.mp h]; rfl
  | succ n ih =>
    obtain ⟨u, hstep, hrun⟩ := run_succ_eq_next.mp h
    rw [finalAfter_of_next hstep, State.hostActs_of_no_host hnohost]
    exact ih (no_host_of_step hnohost hstep) hrun

end

/-- Settles O59: what stands right after the host's last access decides, because the turns after it are the unit's and
the power supply's, and they leave an idle unit idle. -/
theorem finalStateNeedsAnIdleUnit : Obligations.FinalStateNeedsAnIdleUnit := by
  refine ⟨fun s t h => ⟨run_of_finalAfter h, finalAfter_settled h⟩, ?_⟩
  intro s u t before after x hsched hnohost hu ht
  have hlen : s.schedule.length = before.length + 1 + after.length := by simp [hsched]; omega
  have hafter : u.schedule = after := by rw [schedule_of_run hu, hsched]; simp
  have hend : t.schedule = [] := by rw [schedule_of_run ht, List.drop_length]
  obtain ⟨u', hu', hrest⟩ := run_add_eq_next.mp (hlen ▸ ht)
  obtain rfl : u = u' := Host.Outcome.next.inj (hu.symm.trans hu')
  subst hafter
  have hfinal : s.finalState =
      if t.schedule = [] ∧ t.pending = none ∧ u.pending.isNone = true then some t else none :=
    calc s.finalState = finalAfter (u.schedule.length + (before.length + 1)) s.pending.isNone s := by
          rw [State.finalState, hlen, Nat.add_comm]
      _ = finalAfter u.schedule.length u.pending.isNone u := finalAfter_of_host hsched hu _ _
      _ = _ := finalAfter_of_no_host hnohost hrest _
  rw [hfinal]
  by_cases hidle : u.pending = none
  · simp [hend, hidle, pending_of_run hnohost hidle hrest]
  · simp [hidle]

end Sys2Proof.Machine
end
